-- ==== Sys2Proof/Word.lean ====
section
/-! DEFINITION. The widths of the machine's data: bytes, words, physical addresses, 80-bit registers (spec/00_scope.md R8, R9). -/

namespace Sys2Proof

/-- Eight bits (R9). -/
abbrev Byte := BitVec 8

/-- Sixteen bits, "word" (R9). -/
abbrev Word := BitVec 16

/-- A 24-bit physical address (R7, R55). -/
abbrev Addr := BitVec 24

/-- An 80-bit temporary real: sign 79, biased exponent 78:64, significand 63:0 (R744). -/
abbrev Temp := BitVec 80

end Sys2Proof
end

