-- ==== Sys2Proof/Syntax.lean ====
section
/-! DEFINITION. The instructions: one constructor per mnemonic of spec/opcode_table.json, its argument naming
the row (the encoding form) and the operands. The 408 rows are the 205 constructors with their forms: Lean's compiler
admits at most 244 constructors in one inductive (log 11). -/

namespace Sys2Proof

/-- Byte registers in encoding order 0 to 7 (R256). -/
inductive Reg8 where
  | al | cl | dl | bl | ah | ch | dh | bh
  deriving DecidableEq, Repr

/-- Word registers in encoding order 0 to 7 (R256). -/
inductive Reg16 where
  | ax | cx | dx | bx | sp | bp | si | di
  deriving DecidableEq, Repr

/-- Segment registers in encoding order 0 to 3 (R257). -/
inductive Sreg where
  | es | cs | ss | ds
  deriving DecidableEq, Repr

/-- The base and index registers an r/m code names, in encoding order 0 to 7 (R262). -/
inductive Base where
  | bxSi | bxDi | bpSi | bpDi | si | di | bp | bx
  deriving DecidableEq, Repr

/-- A ModRM memory operand: direct (R263), or base/index with no, an 8-bit or a 16-bit displacement (R258). -/
inductive Mem where
  | direct (off : Word)
  | ind (b : Base)
  | disp8 (b : Base) (d : Byte)
  | disp16 (b : Base) (d : Word)
  deriving DecidableEq, Repr

/-- The r/m operand of a ModRM byte: a register (mod = 11) or memory. -/
inductive Rm (R : Type) where
  | reg (r : R)
  | mem (m : Mem)
  deriving DecidableEq, Repr

/-- `eb`: a byte register or memory byte. -/
abbrev Eb := Rm Reg8

/-- `ew`: a word register or memory word. -/
abbrev Ew := Rm Reg16

/-- The nine rows of ADD, OR, ADC, SBB, AND, SUB, XOR, CMP (R280, R281). -/
inductive AluForm where
  | ebRb (e : Eb) (r : Reg8)
  | ewRw (e : Ew) (r : Reg16)
  | rbEb (r : Reg8) (e : Eb)
  | rwEw (r : Reg16) (e : Ew)
  | alDb (v : Byte)
  | axDw (v : Word)
  | ebDb (e : Eb) (v : Byte)
  | ewDw (e : Ew) (v : Word)
  | ewDb (e : Ew) (v : Byte)
  deriving DecidableEq, Repr

/-- The rows of MOV (88 to 8C, 8E, A0 to A3, B0 to BF, C6, C7). -/
inductive MovForm where
  | ebRb (e : Eb) (r : Reg8)
  | ewRw (e : Ew) (r : Reg16)
  | rbEb (r : Reg8) (e : Eb)
  | rwEw (r : Reg16) (e : Ew)
  | ewSreg (e : Ew) (s : Sreg)
  | sregEw (s : Sreg) (e : Ew)
  | alXb (off : Word)
  | axXw (off : Word)
  | xbAl (off : Word)
  | xwAx (off : Word)
  | rbDb (r : Reg8) (v : Byte)
  | rwDw (r : Reg16) (v : Word)
  | ebDb (e : Eb) (v : Byte)
  | ewDw (e : Ew) (v : Word)
  deriving DecidableEq, Repr

/-- The rows of PUSH (50+rw, 06/0E/16/1E, FF /6, 68, 6A). -/
inductive PushForm where
  | rw (r : Reg16)
  | sreg (s : Sreg)
  | mw (e : Ew)
  | dw (v : Word)
  | db (v : Byte)
  deriving DecidableEq, Repr

/-- The rows of POP (58+rw, 07/17/1F, 8F /0). -/
inductive PopForm where
  | rw (r : Reg16)
  | sreg (s : Sreg)
  | mw (e : Ew)
  deriving DecidableEq, Repr

/-- The rows of XCHG (86, 87, 90+rw). -/
inductive XchgForm where
  | ebRb (e : Eb) (r : Reg8)
  | ewRw (e : Ew) (r : Reg16)
  | axRw (r : Reg16)
  deriving DecidableEq, Repr

/-- The rows of IN and of OUT: width byte or word, port immediate or DX (E4 to E7, EC to EF). -/
inductive PortForm where
  | byteImm (p : Byte)
  | wordImm (p : Byte)
  | byteDx
  | wordDx
  deriving DecidableEq, Repr

/-- The rows of INC and DEC. -/
inductive IncForm where
  | eb (e : Eb)
  | ew (e : Ew)
  | rw (r : Reg16)
  deriving DecidableEq, Repr

/-- The rows of NOT, NEG, MUL, DIV, IDIV (F6 /n, F7 /n). -/
inductive UnaryForm where
  | eb (e : Eb)
  | ew (e : Ew)
  deriving DecidableEq, Repr

/-- The rows of IMUL (F6 /5, F7 /5, 69, 6B). -/
inductive ImulForm where
  | eb (e : Eb)
  | ew (e : Ew)
  | rwEwDw (r : Reg16) (e : Ew) (v : Word)
  | rwEwDb (r : Reg16) (e : Ew) (v : Byte)
  deriving DecidableEq, Repr

/-- The rows of TEST (84, 85, A8, A9, F6 /0, F7 /0). -/
inductive TestForm where
  | ebRb (e : Eb) (r : Reg8)
  | ewRw (e : Ew) (r : Reg16)
  | alDb (v : Byte)
  | axDw (v : Word)
  | ebDb (e : Eb) (v : Byte)
  | ewDw (e : Ew) (v : Word)
  deriving DecidableEq, Repr

/-- The count of a shift or rotate: D0/D1 (one), D2/D3 (CL), C0/C1 (immediate). -/
inductive Count where
  | one
  | cl
  | imm (v : Byte)
  deriving DecidableEq, Repr

/-- The six rows of each shift and rotate (R282). -/
inductive ShiftForm where
  | eb (e : Eb) (c : Count)
  | ew (e : Ew) (c : Count)
  deriving DecidableEq, Repr

/-- The rows of JMP (EB, E9, FF /4, EA, FF /5). -/
inductive JmpForm where
  | short (d : Byte)
  | near (d : Word)
  | ew (e : Ew)
  | far (off sel : Word)
  | ed (m : Mem)
  deriving DecidableEq, Repr

/-- The rows of CALL (E8, FF /2, 9A, FF /3). -/
inductive CallForm where
  | near (d : Word)
  | ew (e : Ew)
  | far (off sel : Word)
  | ed (m : Mem)
  deriving DecidableEq, Repr

/-- The rows of RET (C3, C2, CB, CA). -/
inductive RetForm where
  | near
  | nearImm (n : Word)
  | far
  | farImm (n : Word)
  deriving DecidableEq, Repr

/-- The rows of FLD (D9 /0, DD /0, DB /5, D9 C0+i). -/
inductive FldForm where
  | m32 (m : Mem)
  | m64 (m : Mem)
  | m80 (m : Mem)
  | st (i : BitVec 3)
  deriving DecidableEq, Repr

/-- The rows of FSTP (D9 /3, DD /3, DB /7, DD D8+i). -/
inductive FstpForm where
  | m32 (m : Mem)
  | m64 (m : Mem)
  | m80 (m : Mem)
  | st (i : BitVec 3)
  deriving DecidableEq, Repr

/-- The rows of FST, FCOM and FCOMP: a real in memory or a stack register. -/
inductive RealForm where
  | m32 (m : Mem)
  | m64 (m : Mem)
  | st (i : BitVec 3)
  deriving DecidableEq, Repr

/-- The rows of FADD, FMUL, FSUB, FSUBR, FDIV, FDIVR: real in memory, ST with ST(i), ST(i) with ST. -/
inductive ArithForm where
  | m32 (m : Mem)
  | m64 (m : Mem)
  | stSti (i : BitVec 3)
  | stiSt (i : BitVec 3)
  deriving DecidableEq, Repr

/-- The rows of the integer-operand 80287 instructions with a word or short integer (DE /n, DA /n; DF /2, DB /2). -/
inductive IntForm where
  | m16 (m : Mem)
  | m32 (m : Mem)
  deriving DecidableEq, Repr

/-- The rows of FILD and FISTP: word, short or long integer. -/
inductive LongIntForm where
  | m16 (m : Mem)
  | m32 (m : Mem)
  | m64 (m : Mem)
  deriving DecidableEq, Repr

/-- Every instruction of spec/opcode_table.json, in the table's order. -/
inductive Instr where
  | add (f : AluForm)
  | or (f : AluForm)
  | adc (f : AluForm)
  | sbb (f : AluForm)
  | and (f : AluForm)
  | sub (f : AluForm)
  | xor (f : AluForm)
  | cmp (f : AluForm)
  | mov (f : MovForm)
  | push (f : PushForm)
  | pop (f : PopForm)
  | pusha
  | popa
  | pushf
  | popf
  | xchg (f : XchgForm)
  | xlat
  | inp (f : PortForm)
  | outp (f : PortForm)
  | lea (r : Reg16) (m : Mem)
  | lds (r : Reg16) (m : Mem)
  | les (r : Reg16) (m : Mem)
  | lahf
  | sahf
  | cbw
  | cwd
  | inc (f : IncForm)
  | dec (f : IncForm)
  | not (f : UnaryForm)
  | neg (f : UnaryForm)
  | mul (f : UnaryForm)
  | imul (f : ImulForm)
  | div (f : UnaryForm)
  | idiv (f : UnaryForm)
  | daa
  | das
  | aaa
  | aas
  | aam
  | aad
  | test (f : TestForm)
  | rol (f : ShiftForm)
  | ror (f : ShiftForm)
  | rcl (f : ShiftForm)
  | rcr (f : ShiftForm)
  | shl (f : ShiftForm)
  | shr (f : ShiftForm)
  | sar (f : ShiftForm)
  | movsb
  | movsw
  | cmpsb
  | cmpsw
  | scasb
  | scasw
  | lodsb
  | lodsw
  | stosb
  | stosw
  | insb
  | insw
  | outsb
  | outsw
  | rep
  | repne
  | jmp (f : JmpForm)
  | jo (d : Byte)
  | jno (d : Byte)
  | jb (d : Byte)
  | jae (d : Byte)
  | je (d : Byte)
  | jne (d : Byte)
  | jbe (d : Byte)
  | ja (d : Byte)
  | js (d : Byte)
  | jns (d : Byte)
  | jp (d : Byte)
  | jnp (d : Byte)
  | jl (d : Byte)
  | jge (d : Byte)
  | jle (d : Byte)
  | jg (d : Byte)
  | jcxz (d : Byte)
  | loop (d : Byte)
  | loope (d : Byte)
  | loopne (d : Byte)
  | call (f : CallForm)
  | ret (f : RetForm)
  | int (v : Byte)
  | int3
  | into
  | iret
  | clc
  | stc
  | cmc
  | cld
  | std
  | cli
  | sti
  | hlt
  | nop
  | lock
  | segEs
  | segCs
  | segSs
  | segDs
  | enter (size : Word) (level : Byte)
  | leave
  | bound (r : Reg16) (m : Mem)
  | wait
  | esc (ttt : BitVec 3) (reg : BitVec 3) (rm : Rm (BitVec 3))
  | arpl (e : Ew) (r : Reg16)
  | sldt (e : Ew)
  | str (e : Ew)
  | lldt (e : Ew)
  | ltr (e : Ew)
  | verr (e : Ew)
  | verw (e : Ew)
  | sgdt (m : Mem)
  | sidt (m : Mem)
  | lgdt (m : Mem)
  | lidt (m : Mem)
  | smsw (e : Ew)
  | lmsw (e : Ew)
  | lar (r : Reg16) (e : Ew)
  | lsl (r : Reg16) (e : Ew)
  | clts
  | fld (f : FldForm)
  | fst (f : RealForm)
  | fstp (f : FstpForm)
  | fxch (i : BitVec 3)
  | fild (f : LongIntForm)
  | fist (f : IntForm)
  | fistp (f : LongIntForm)
  | fbld (m : Mem)
  | fbstp (m : Mem)
  | fadd (f : ArithForm)
  | faddp (i : BitVec 3)
  | fiadd (f : IntForm)
  | fmul (f : ArithForm)
  | fmulp (i : BitVec 3)
  | fimul (f : IntForm)
  | fsub (f : ArithForm)
  | fsubp (i : BitVec 3)
  | fisub (f : IntForm)
  | fsubr (f : ArithForm)
  | fsubrp (i : BitVec 3)
  | fisubr (f : IntForm)
  | fdiv (f : ArithForm)
  | fdivp (i : BitVec 3)
  | fidiv (f : IntForm)
  | fdivr (f : ArithForm)
  | fdivrp (i : BitVec 3)
  | fidivr (f : IntForm)
  | fsqrt
  | fscale
  | fprem
  | frndint
  | fxtract
  | fabs
  | fchs
  | fcom (f : RealForm)
  | fcomp (f : RealForm)
  | fcompp
  | ficom (f : IntForm)
  | ficomp (f : IntForm)
  | ftst
  | fxam
  | fptan
  | fpatan
  | f2xm1
  | fyl2x
  | fyl2xp1
  | fldz
  | fld1
  | fldpi
  | fldl2t
  | fldl2e
  | fldlg2
  | fldln2
  | finit
  | fsetpm
  | fldcw (m : Mem)
  | fstcw (m : Mem)
  | fstsw (m : Mem)
  | fstswAx
  | fclex
  | fstenv (m : Mem)
  | fldenv (m : Mem)
  | fsave (m : Mem)
  | frstor (m : Mem)
  | fincstp
  | fdecstp
  | ffree (i : BitVec 3)
  | fnop
  | feni
  | fdisi
  | fstpAlias1 (i : BitVec 3)
  | fcomAlias2 (i : BitVec 3)
  | fcompAlias3 (i : BitVec 3)
  | fxchAlias4 (i : BitVec 3)
  | fcompAlias5 (i : BitVec 3)
  | ffreePopAlias6 (i : BitVec 3)
  | fxchAlias7 (i : BitVec 3)
  | fstpAlias8 (i : BitVec 3)
  | fstpAlias9 (i : BitVec 3)
  deriving DecidableEq, Repr

end Sys2Proof
end

