-- ==== Sys2Proof/WellFormed.lean ====
section
/-! DEFINITION. Which terms of Instr an encoding exists for: the checks the encoding tables of spec/30_encoding.md
make and the types of Syntax.lean do not. -/

namespace Sys2Proof

/-- `[BP]` has no form without a displacement: mod 00 with r/m 110 is the direct form (R263). -/
def Mem.wf : Mem → Bool
  | .ind .bp => false
  | _ => true

/-- An r/m operand is well-formed when its memory operand is. -/
def Rm.wf {R : Type} : Rm R → Bool
  | .reg _ => true
  | .mem m => m.wf

/-- The sign-extended byte immediate exists for ADD, ADC, SBB, SUB, CMP only (R281: `signExt`). -/
def AluForm.wf (signExt : Bool) : AluForm → Bool
  | .ebRb e _ => e.wf
  | .ewRw e _ => e.wf
  | .rbEb _ e => e.wf
  | .rwEw _ e => e.wf
  | .alDb _ => true
  | .axDw _ => true
  | .ebDb e _ => e.wf
  | .ewDw e _ => e.wf
  | .ewDb e _ => signExt && e.wf

/-- CS is no destination of MOV (R300). -/
def MovForm.wf : MovForm → Bool
  | .ebRb e _ => e.wf
  | .ewRw e _ => e.wf
  | .rbEb _ e => e.wf
  | .rwEw _ e => e.wf
  | .ewSreg e _ => e.wf
  | .sregEw s e => s != .cs && e.wf
  | .ebDb e _ => e.wf
  | .ewDw e _ => e.wf
  | _ => true

/-- PUSH: every segment register may be pushed (R257). -/
def PushForm.wf : PushForm → Bool
  | .mw e => e.wf
  | _ => true

/-- POP: CS is excluded, its byte 0FH is the two-byte escape (R300). -/
def PopForm.wf : PopForm → Bool
  | .sreg s => s != .cs
  | .mw e => e.wf
  | .rw _ => true

/-- XCHG AX,AX is the byte 90H, NOP (R289). -/
def XchgForm.wf : XchgForm → Bool
  | .ebRb e _ => e.wf
  | .ewRw e _ => e.wf
  | .axRw r => r != .ax

def IncForm.wf : IncForm → Bool
  | .eb e => e.wf
  | .ew e => e.wf
  | .rw _ => true

def UnaryForm.wf : UnaryForm → Bool
  | .eb e => e.wf
  | .ew e => e.wf

def ImulForm.wf : ImulForm → Bool
  | .eb e => e.wf
  | .ew e => e.wf
  | .rwEwDw _ e _ => e.wf
  | .rwEwDb _ e _ => e.wf

def TestForm.wf : TestForm → Bool
  | .ebRb e _ => e.wf
  | .ewRw e _ => e.wf
  | .alDb _ => true
  | .axDw _ => true
  | .ebDb e _ => e.wf
  | .ewDw e _ => e.wf

def ShiftForm.wf : ShiftForm → Bool
  | .eb e _ => e.wf
  | .ew e _ => e.wf

def JmpForm.wf : JmpForm → Bool
  | .ew e => e.wf
  | .ed m => m.wf
  | _ => true

def CallForm.wf : CallForm → Bool
  | .ew e => e.wf
  | .ed m => m.wf
  | _ => true

def FldForm.wf : FldForm → Bool
  | .m32 m => m.wf
  | .m64 m => m.wf
  | .m80 m => m.wf
  | .st _ => true

def FstpForm.wf : FstpForm → Bool
  | .m32 m => m.wf
  | .m64 m => m.wf
  | .m80 m => m.wf
  | .st _ => true

def RealForm.wf : RealForm → Bool
  | .m32 m => m.wf
  | .m64 m => m.wf
  | .st _ => true

def ArithForm.wf : ArithForm → Bool
  | .m32 m => m.wf
  | .m64 m => m.wf
  | _ => true

def IntForm.wf : IntForm → Bool
  | .m16 m => m.wf
  | .m32 m => m.wf

def LongIntForm.wf : LongIntForm → Bool
  | .m16 m => m.wf
  | .m32 m => m.wf
  | .m64 m => m.wf

/-- The memory ESC encodings that 49_npx_instructions.md assigns (R887): `ttt` is the first byte's low three bits,
`n` the reg field of the ModRM byte. -/
def escMemAssigned (ttt n : BitVec 3) : Bool :=
  match ttt.toNat, n.toNat with
  | 1, 1 => false
  | 3, 1 => false
  | 3, 4 => false
  | 3, 6 => false
  | 5, 1 => false
  | 5, 5 => false
  | 7, 1 => false
  | _, _ => true

/-- The register ESC encodings (mod = 11) that 49_npx_instructions.md assigns (R885, R887). -/
def escRegAssigned (ttt n i : BitVec 3) : Bool :=
  match ttt.toNat, n.toNat with
  | 0, _ => true
  | 1, 0 => true
  | 1, 1 => true
  | 1, 2 => i == 0
  | 1, 3 => true
  | 1, 4 => i == 0 || i == 1 || i == 4 || i == 5
  | 1, 5 => i != 7
  | 1, 6 => i != 5
  | 1, _ => i == 0 || i == 1 || i == 2 || i == 4 || i == 5
  | 2, _ => false
  | 3, 4 => i == 0 || i == 1 || i == 2 || i == 3 || i == 4
  | 3, _ => false
  | 4, _ => true
  | 5, 0 => true
  | 5, 1 => true
  | 5, 2 => true
  | 5, 3 => true
  | 5, _ => false
  | 6, 3 => i == 1
  | 6, _ => true
  | _, 0 => true
  | _, 1 => true
  | _, 2 => true
  | _, 3 => true
  | _, 4 => i == 0
  | _, _ => false

/-- The constructor `esc` stands for the ESC encodings no 80287 instruction has (R288, R886). -/
def escAssigned (ttt n : BitVec 3) : Rm (BitVec 3) → Bool
  | .reg i => escRegAssigned ttt n i
  | .mem _ => escMemAssigned ttt n

/-- The well-formed instructions: those some byte sequence decodes to. -/
def Instr.wf : Instr → Bool
  | .add f => f.wf true
  | .or f => f.wf false
  | .adc f => f.wf true
  | .sbb f => f.wf true
  | .and f => f.wf false
  | .sub f => f.wf true
  | .xor f => f.wf false
  | .cmp f => f.wf true
  | .mov f => f.wf
  | .push f => f.wf
  | .pop f => f.wf
  | .xchg f => f.wf
  | .lea _ m => m.wf
  | .lds _ m => m.wf
  | .les _ m => m.wf
  | .inc f => f.wf
  | .dec f => f.wf
  | .not f => f.wf
  | .neg f => f.wf
  | .mul f => f.wf
  | .imul f => f.wf
  | .div f => f.wf
  | .idiv f => f.wf
  | .test f => f.wf
  | .rol f => f.wf
  | .ror f => f.wf
  | .rcl f => f.wf
  | .rcr f => f.wf
  | .shl f => f.wf
  | .shr f => f.wf
  | .sar f => f.wf
  | .jmp f => f.wf
  | .call f => f.wf
  | .bound _ m => m.wf
  | .esc t n rm => rm.wf && !escAssigned t n rm
  | .arpl e _ => e.wf
  | .sldt e => e.wf
  | .str e => e.wf
  | .lldt e => e.wf
  | .ltr e => e.wf
  | .verr e => e.wf
  | .verw e => e.wf
  | .sgdt m => m.wf
  | .sidt m => m.wf
  | .lgdt m => m.wf
  | .lidt m => m.wf
  | .smsw e => e.wf
  | .lmsw e => e.wf
  | .lar _ e => e.wf
  | .lsl _ e => e.wf
  | .fld f => f.wf
  | .fst f => f.wf
  | .fstp f => f.wf
  | .fild f => f.wf
  | .fist f => f.wf
  | .fistp f => f.wf
  | .fbld m => m.wf
  | .fbstp m => m.wf
  | .fadd f => f.wf
  | .fiadd f => f.wf
  | .fmul f => f.wf
  | .fimul f => f.wf
  | .fsub f => f.wf
  | .fisub f => f.wf
  | .fsubr f => f.wf
  | .fisubr f => f.wf
  | .fdiv f => f.wf
  | .fidiv f => f.wf
  | .fdivr f => f.wf
  | .fidivr f => f.wf
  | .fcom f => f.wf
  | .fcomp f => f.wf
  | .ficom f => f.wf
  | .ficomp f => f.wf
  | .fldcw m => m.wf
  | .fstcw m => m.wf
  | .fstsw m => m.wf
  | .fstenv m => m.wf
  | .fldenv m => m.wf
  | .fsave m => m.wf
  | .frstor m => m.wf
  | _ => true

end Sys2Proof
end

