-- ==== Sys2Proof/Decode.lean ====
section
/-! DEFINITION. The decoder, from the bytes after the prefixes to one instruction (spec/30_encoding.md R250 to R301), and the
encoder written from the same tables. A prefix byte decodes to its own constructor (log 1). -/

namespace Sys2Proof

/-- Why a byte sequence is no instruction. -/
inductive DecodeError where
  /-- More bytes are needed than are given. -/
  | truncated
  /-- An unlisted encoding: #UD (R290, R292). -/
  | undefined
  /-- 8F /1 to /7 and FF /7: exception 13 (R292, D16). -/
  | stackGroup
  /-- D4 or D5 followed by a byte other than 0AH: the spec refuses it (R293, U9). -/
  | adjustByte
  deriving DecidableEq, Repr

/-- What decoding answers: the instruction and the bytes after it, or the reason there is none. -/
abbrev Decoded := Except DecodeError (Instr × List Byte)

/-! ## Fields -/

/-- `reg8[code]` (R256). -/
def Reg8.ofBits (c : BitVec 3) : Reg8 :=
  match c.toNat with
  | 0 => .al | 1 => .cl | 2 => .dl | 3 => .bl | 4 => .ah | 5 => .ch | 6 => .dh | _ => .bh

/-- The code of a byte register (R256). -/
def Reg8.bits : Reg8 → BitVec 3
  | .al => 0 | .cl => 1 | .dl => 2 | .bl => 3 | .ah => 4 | .ch => 5 | .dh => 6 | .bh => 7

/-- `reg16[code]` (R256). -/
def Reg16.ofBits (c : BitVec 3) : Reg16 :=
  match c.toNat with
  | 0 => .ax | 1 => .cx | 2 => .dx | 3 => .bx | 4 => .sp | 5 => .bp | 6 => .si | _ => .di

/-- The code of a word register (R256). -/
def Reg16.bits : Reg16 → BitVec 3
  | .ax => 0 | .cx => 1 | .dx => 2 | .bx => 3 | .sp => 4 | .bp => 5 | .si => 6 | .di => 7

/-- The code of a segment register (R257). -/
def Sreg.bits : Sreg → BitVec 3
  | .es => 0 | .cs => 1 | .ss => 2 | .ds => 3

/-- The base and index registers of an r/m code (R262). -/
def Base.ofBits (c : BitVec 3) : Base :=
  match c.toNat with
  | 0 => .bxSi | 1 => .bxDi | 2 => .bpSi | 3 => .bpDi | 4 => .si | 5 => .di | 6 => .bp | _ => .bx

/-- The r/m code of base and index registers (R262). -/
def Base.bits : Base → BitVec 3
  | .bxSi => 0 | .bxDi => 1 | .bpSi => 2 | .bpDi => 3 | .si => 4 | .di => 5 | .bp => 6 | .bx => 7

/-- Change what a register operand holds, leaving a memory operand. -/
def Rm.map {R S : Type} (f : R → S) : Rm R → Rm S
  | .reg r => .reg (f r)
  | .mem m => .mem m

/-- Take one byte (`db`, `cb`). -/
def withByte (bs : List Byte) (k : Byte → List Byte → Decoded) : Decoded :=
  match bs with
  | b :: bs => k b bs
  | [] => .error .truncated

/-- Take one word, low byte first (`dw`, `cw`; R260). -/
def withWord (bs : List Byte) (k : Word → List Byte → Decoded) : Decoded :=
  match bs with
  | lo :: hi :: bs => k (hi ++ lo) bs
  | _ => .error .truncated

/-- Take a ModRM byte and its displacement (R255, R258, R259, R263): `k` receives the reg field, the r/m operand
with a register still as its code, and the bytes that follow. -/
def withModrm (bs : List Byte) (k : BitVec 3 → Rm (BitVec 3) → List Byte → Decoded) : Decoded :=
  withByte bs fun b bs =>
    let g := b.extractLsb' 3 3
    let rm := b.extractLsb' 0 3
    match (b.extractLsb' 6 2).toNat with
    | 0 =>
      if rm = 6 then withWord bs fun w bs => k g (.mem (.direct w)) bs
      else k g (.mem (.ind (.ofBits rm))) bs
    | 1 => withByte bs fun d bs => k g (.mem (.disp8 (.ofBits rm) d)) bs
    | 2 => withWord bs fun d bs => k g (.mem (.disp16 (.ofBits rm) d)) bs
    | _ => k g (.reg rm) bs

/-- An operand that must be in memory: a register form is #UD (R268). -/
def memOnly (e : Rm (BitVec 3)) (k : Mem → Decoded) : Decoded :=
  match e with
  | .mem m => k m
  | .reg _ => .error .undefined

/-- A segment register in the reg field; codes 4 to 7 are #UD (R257). -/
def withSreg (g : BitVec 3) (k : Sreg → Decoded) : Decoded :=
  match g.toNat with
  | 0 => k .es
  | 1 => k .cs
  | 2 => k .ss
  | 3 => k .ds
  | _ => .error .undefined

/-! ## Opcode groups -/

/-- Group 1 with opcodes 80 and 81 (R281). -/
def group1 (g : BitVec 3) (f : AluForm) : Instr :=
  match g.toNat with
  | 0 => .add f | 1 => .or f | 2 => .adc f | 3 => .sbb f | 4 => .and f | 5 => .sub f | 6 => .xor f | _ => .cmp f

/-- Group 1 with opcode 83: /1, /4 and /6 are not listed (R281, R292). -/
def group1SignExt (g : BitVec 3) (f : AluForm) (bs : List Byte) : Decoded :=
  match g.toNat with
  | 0 => .ok (.add f, bs)
  | 2 => .ok (.adc f, bs)
  | 3 => .ok (.sbb f, bs)
  | 5 => .ok (.sub f, bs)
  | 7 => .ok (.cmp f, bs)
  | _ => .error .undefined

/-- Group 2, shifts and rotates: /6 is not listed (R282). -/
def group2 (g : BitVec 3) (f : ShiftForm) (bs : List Byte) : Decoded :=
  match g.toNat with
  | 0 => .ok (.rol f, bs)
  | 1 => .ok (.ror f, bs)
  | 2 => .ok (.rcl f, bs)
  | 3 => .ok (.rcr f, bs)
  | 4 => .ok (.shl f, bs)
  | 5 => .ok (.shr f, bs)
  | 7 => .ok (.sar f, bs)
  | _ => .error .undefined

/-- Group 3 byte, F6 (R283). -/
def group3Byte (g : BitVec 3) (e : Eb) (bs : List Byte) : Decoded :=
  match g.toNat with
  | 0 => withByte bs fun v bs => .ok (.test (.ebDb e v), bs)
  | 2 => .ok (.not (.eb e), bs)
  | 3 => .ok (.neg (.eb e), bs)
  | 4 => .ok (.mul (.eb e), bs)
  | 5 => .ok (.imul (.eb e), bs)
  | 6 => .ok (.div (.eb e), bs)
  | 7 => .ok (.idiv (.eb e), bs)
  | _ => .error .undefined

/-- Group 3 word, F7 (R283). -/
def group3Word (g : BitVec 3) (e : Ew) (bs : List Byte) : Decoded :=
  match g.toNat with
  | 0 => withWord bs fun v bs => .ok (.test (.ewDw e v), bs)
  | 2 => .ok (.not (.ew e), bs)
  | 3 => .ok (.neg (.ew e), bs)
  | 4 => .ok (.mul (.ew e), bs)
  | 5 => .ok (.imul (.ew e), bs)
  | 6 => .ok (.div (.ew e), bs)
  | 7 => .ok (.idiv (.ew e), bs)
  | _ => .error .undefined

/-- Group 4, FE (R284). -/
def group4 (g : BitVec 3) (e : Eb) (bs : List Byte) : Decoded :=
  match g.toNat with
  | 0 => .ok (.inc (.eb e), bs)
  | 1 => .ok (.dec (.eb e), bs)
  | _ => .error .undefined

/-- Group 5, FF (R285); /7 is exception 13 (R292). -/
def group5 (g : BitVec 3) (e : Rm (BitVec 3)) (bs : List Byte) : Decoded :=
  match g.toNat with
  | 0 => .ok (.inc (.ew (e.map Reg16.ofBits)), bs)
  | 1 => .ok (.dec (.ew (e.map Reg16.ofBits)), bs)
  | 2 => .ok (.call (.ew (e.map Reg16.ofBits)), bs)
  | 3 => memOnly e fun m => .ok (.call (.ed m), bs)
  | 4 => .ok (.jmp (.ew (e.map Reg16.ofBits)), bs)
  | 5 => memOnly e fun m => .ok (.jmp (.ed m), bs)
  | 6 => .ok (.push (.mw (e.map Reg16.ofBits)), bs)
  | _ => .error .stackGroup

/-- 0F 00 /n (R286). -/
def group6 (g : BitVec 3) (e : Ew) (bs : List Byte) : Decoded :=
  match g.toNat with
  | 0 => .ok (.sldt e, bs)
  | 1 => .ok (.str e, bs)
  | 2 => .ok (.lldt e, bs)
  | 3 => .ok (.ltr e, bs)
  | 4 => .ok (.verr e, bs)
  | 5 => .ok (.verw e, bs)
  | _ => .error .undefined

/-- 0F 01 /n (R286). -/
def group7 (g : BitVec 3) (e : Rm (BitVec 3)) (bs : List Byte) : Decoded :=
  match g.toNat with
  | 0 => memOnly e fun m => .ok (.sgdt m, bs)
  | 1 => memOnly e fun m => .ok (.sidt m, bs)
  | 2 => memOnly e fun m => .ok (.lgdt m, bs)
  | 3 => memOnly e fun m => .ok (.lidt m, bs)
  | 4 => .ok (.smsw (e.map Reg16.ofBits), bs)
  | 6 => .ok (.lmsw (e.map Reg16.ofBits), bs)
  | _ => .error .undefined

/-- The two-byte map (R286). -/
def decode0F (bs : List Byte) : Decoded :=
  withByte bs fun b bs =>
    match b.toNat with
    | 0x00 => withModrm bs fun g e bs => group6 g (e.map Reg16.ofBits) bs
    | 0x01 => withModrm bs fun g e bs => group7 g e bs
    | 0x02 => withModrm bs fun g e bs => .ok (.lar (.ofBits g) (e.map Reg16.ofBits), bs)
    | 0x03 => withModrm bs fun g e bs => .ok (.lsl (.ofBits g) (e.map Reg16.ofBits), bs)
    | 0x06 => .ok (.clts, bs)
    | _ => .error .undefined

/-! ## The 80287's encodings (49_npx_instructions.md R814, R885, R887) -/

/-- ESC with a memory operand: the first byte's low three bits, then the reg field. -/
def decodeEscMem (ttt n : BitVec 3) (m : Mem) : Instr :=
  match ttt.toNat, n.toNat with
  | 0, 0 => .fadd (.m32 m)
  | 0, 1 => .fmul (.m32 m)
  | 0, 2 => .fcom (.m32 m)
  | 0, 3 => .fcomp (.m32 m)
  | 0, 4 => .fsub (.m32 m)
  | 0, 5 => .fsubr (.m32 m)
  | 0, 6 => .fdiv (.m32 m)
  | 0, _ => .fdivr (.m32 m)
  | 1, 0 => .fld (.m32 m)
  | 1, 2 => .fst (.m32 m)
  | 1, 3 => .fstp (.m32 m)
  | 1, 4 => .fldenv m
  | 1, 5 => .fldcw m
  | 1, 6 => .fstenv m
  | 1, 7 => .fstcw m
  | 2, 0 => .fiadd (.m32 m)
  | 2, 1 => .fimul (.m32 m)
  | 2, 2 => .ficom (.m32 m)
  | 2, 3 => .ficomp (.m32 m)
  | 2, 4 => .fisub (.m32 m)
  | 2, 5 => .fisubr (.m32 m)
  | 2, 6 => .fidiv (.m32 m)
  | 2, _ => .fidivr (.m32 m)
  | 3, 0 => .fild (.m32 m)
  | 3, 2 => .fist (.m32 m)
  | 3, 3 => .fistp (.m32 m)
  | 3, 5 => .fld (.m80 m)
  | 3, 7 => .fstp (.m80 m)
  | 4, 0 => .fadd (.m64 m)
  | 4, 1 => .fmul (.m64 m)
  | 4, 2 => .fcom (.m64 m)
  | 4, 3 => .fcomp (.m64 m)
  | 4, 4 => .fsub (.m64 m)
  | 4, 5 => .fsubr (.m64 m)
  | 4, 6 => .fdiv (.m64 m)
  | 4, _ => .fdivr (.m64 m)
  | 5, 0 => .fld (.m64 m)
  | 5, 2 => .fst (.m64 m)
  | 5, 3 => .fstp (.m64 m)
  | 5, 4 => .frstor m
  | 5, 6 => .fsave m
  | 5, 7 => .fstsw m
  | 6, 0 => .fiadd (.m16 m)
  | 6, 1 => .fimul (.m16 m)
  | 6, 2 => .ficom (.m16 m)
  | 6, 3 => .ficomp (.m16 m)
  | 6, 4 => .fisub (.m16 m)
  | 6, 5 => .fisubr (.m16 m)
  | 6, 6 => .fidiv (.m16 m)
  | 6, _ => .fidivr (.m16 m)
  | 7, 0 => .fild (.m16 m)
  | 7, 2 => .fist (.m16 m)
  | 7, 3 => .fistp (.m16 m)
  | 7, 4 => .fbld m
  | 7, 5 => .fild (.m64 m)
  | 7, 6 => .fbstp m
  | 7, 7 => .fistp (.m64 m)
  | _, _ => .esc ttt n (.mem m)

/-- D9 with mod = 11 and reg field 4 to 7: the one-operand instructions and constants. -/
def decodeD9 (n i : BitVec 3) : Instr :=
  match n.toNat, i.toNat with
  | 4, 0 => .fchs
  | 4, 1 => .fabs
  | 4, 4 => .ftst
  | 4, 5 => .fxam
  | 5, 0 => .fld1
  | 5, 1 => .fldl2t
  | 5, 2 => .fldl2e
  | 5, 3 => .fldpi
  | 5, 4 => .fldlg2
  | 5, 5 => .fldln2
  | 5, 6 => .fldz
  | 6, 0 => .f2xm1
  | 6, 1 => .fyl2x
  | 6, 2 => .fptan
  | 6, 3 => .fpatan
  | 6, 4 => .fxtract
  | 6, 6 => .fdecstp
  | 6, 7 => .fincstp
  | 7, 0 => .fprem
  | 7, 1 => .fyl2xp1
  | 7, 2 => .fsqrt
  | 7, 4 => .frndint
  | 7, 5 => .fscale
  | _, _ => .esc 1 n (.reg i)

/-- ESC with mod = 11. -/
def decodeEscReg (ttt n i : BitVec 3) : Instr :=
  match ttt.toNat, n.toNat with
  | 0, 0 => .fadd (.stSti i)
  | 0, 1 => .fmul (.stSti i)
  | 0, 2 => .fcom (.st i)
  | 0, 3 => .fcomp (.st i)
  | 0, 4 => .fsub (.stSti i)
  | 0, 5 => .fsubr (.stSti i)
  | 0, 6 => .fdiv (.stSti i)
  | 0, _ => .fdivr (.stSti i)
  | 1, 0 => .fld (.st i)
  | 1, 1 => .fxch i
  | 1, 2 => if i = 0 then .fnop else .esc ttt n (.reg i)
  | 1, 3 => .fstpAlias1 i
  | 1, _ => decodeD9 n i
  | 3, 4 =>
    match i.toNat with
    | 0 => .feni
    | 1 => .fdisi
    | 2 => .fclex
    | 3 => .finit
    | 4 => .fsetpm
    | _ => .esc ttt n (.reg i)
  | 4, 0 => .fadd (.stiSt i)
  | 4, 1 => .fmul (.stiSt i)
  | 4, 2 => .fcomAlias2 i
  | 4, 3 => .fcompAlias3 i
  | 4, 4 => .fsubr (.stiSt i)
  | 4, 5 => .fsub (.stiSt i)
  | 4, 6 => .fdivr (.stiSt i)
  | 4, _ => .fdiv (.stiSt i)
  | 5, 0 => .ffree i
  | 5, 1 => .fxchAlias4 i
  | 5, 2 => .fst (.st i)
  | 5, 3 => .fstp (.st i)
  | 6, 0 => .faddp i
  | 6, 1 => .fmulp i
  | 6, 2 => .fcompAlias5 i
  | 6, 3 => if i = 1 then .fcompp else .esc ttt n (.reg i)
  | 6, 4 => .fsubrp i
  | 6, 5 => .fsubp i
  | 6, 6 => .fdivrp i
  | 6, _ => .fdivp i
  | 7, 0 => .ffreePopAlias6 i
  | 7, 1 => .fxchAlias7 i
  | 7, 2 => .fstpAlias8 i
  | 7, 3 => .fstpAlias9 i
  | 7, 4 => if i = 0 then .fstswAx else .esc ttt n (.reg i)
  | _, _ => .esc ttt n (.reg i)

/-- ESC, first bytes D8 to DF: never #UD (R288). -/
def decodeEsc (ttt n : BitVec 3) : Rm (BitVec 3) → Instr
  | .mem m => decodeEscMem ttt n m
  | .reg i => decodeEscReg ttt n i

/-! ## The one-byte map (R280) -/

/-- The instruction that starts with opcode byte `op`, `bs` being the bytes after it. -/
def decodeOp (op : Nat) (bs : List Byte) : Decoded :=
  match op with
  | 0x00 => withModrm bs fun g e bs => .ok (.add (.ebRb (e.map Reg8.ofBits) (.ofBits g)), bs)
  | 0x01 => withModrm bs fun g e bs => .ok (.add (.ewRw (e.map Reg16.ofBits) (.ofBits g)), bs)
  | 0x02 => withModrm bs fun g e bs => .ok (.add (.rbEb (.ofBits g) (e.map Reg8.ofBits)), bs)
  | 0x03 => withModrm bs fun g e bs => .ok (.add (.rwEw (.ofBits g) (e.map Reg16.ofBits)), bs)
  | 0x04 => withByte bs fun v bs => .ok (.add (.alDb v), bs)
  | 0x05 => withWord bs fun v bs => .ok (.add (.axDw v), bs)
  | 0x06 => .ok (.push (.sreg .es), bs)
  | 0x07 => .ok (.pop (.sreg .es), bs)
  | 0x08 => withModrm bs fun g e bs => .ok (.or (.ebRb (e.map Reg8.ofBits) (.ofBits g)), bs)
  | 0x09 => withModrm bs fun g e bs => .ok (.or (.ewRw (e.map Reg16.ofBits) (.ofBits g)), bs)
  | 0x0A => withModrm bs fun g e bs => .ok (.or (.rbEb (.ofBits g) (e.map Reg8.ofBits)), bs)
  | 0x0B => withModrm bs fun g e bs => .ok (.or (.rwEw (.ofBits g) (e.map Reg16.ofBits)), bs)
  | 0x0C => withByte bs fun v bs => .ok (.or (.alDb v), bs)
  | 0x0D => withWord bs fun v bs => .ok (.or (.axDw v), bs)
  | 0x0E => .ok (.push (.sreg .cs), bs)
  | 0x0F => decode0F bs
  | 0x10 => withModrm bs fun g e bs => .ok (.adc (.ebRb (e.map Reg8.ofBits) (.ofBits g)), bs)
  | 0x11 => withModrm bs fun g e bs => .ok (.adc (.ewRw (e.map Reg16.ofBits) (.ofBits g)), bs)
  | 0x12 => withModrm bs fun g e bs => .ok (.adc (.rbEb (.ofBits g) (e.map Reg8.ofBits)), bs)
  | 0x13 => withModrm bs fun g e bs => .ok (.adc (.rwEw (.ofBits g) (e.map Reg16.ofBits)), bs)
  | 0x14 => withByte bs fun v bs => .ok (.adc (.alDb v), bs)
  | 0x15 => withWord bs fun v bs => .ok (.adc (.axDw v), bs)
  | 0x16 => .ok (.push (.sreg .ss), bs)
  | 0x17 => .ok (.pop (.sreg .ss), bs)
  | 0x18 => withModrm bs fun g e bs => .ok (.sbb (.ebRb (e.map Reg8.ofBits) (.ofBits g)), bs)
  | 0x19 => withModrm bs fun g e bs => .ok (.sbb (.ewRw (e.map Reg16.ofBits) (.ofBits g)), bs)
  | 0x1A => withModrm bs fun g e bs => .ok (.sbb (.rbEb (.ofBits g) (e.map Reg8.ofBits)), bs)
  | 0x1B => withModrm bs fun g e bs => .ok (.sbb (.rwEw (.ofBits g) (e.map Reg16.ofBits)), bs)
  | 0x1C => withByte bs fun v bs => .ok (.sbb (.alDb v), bs)
  | 0x1D => withWord bs fun v bs => .ok (.sbb (.axDw v), bs)
  | 0x1E => .ok (.push (.sreg .ds), bs)
  | 0x1F => .ok (.pop (.sreg .ds), bs)
  | 0x20 => withModrm bs fun g e bs => .ok (.and (.ebRb (e.map Reg8.ofBits) (.ofBits g)), bs)
  | 0x21 => withModrm bs fun g e bs => .ok (.and (.ewRw (e.map Reg16.ofBits) (.ofBits g)), bs)
  | 0x22 => withModrm bs fun g e bs => .ok (.and (.rbEb (.ofBits g) (e.map Reg8.ofBits)), bs)
  | 0x23 => withModrm bs fun g e bs => .ok (.and (.rwEw (.ofBits g) (e.map Reg16.ofBits)), bs)
  | 0x24 => withByte bs fun v bs => .ok (.and (.alDb v), bs)
  | 0x25 => withWord bs fun v bs => .ok (.and (.axDw v), bs)
  | 0x26 => .ok (.segEs, bs)
  | 0x27 => .ok (.daa, bs)
  | 0x28 => withModrm bs fun g e bs => .ok (.sub (.ebRb (e.map Reg8.ofBits) (.ofBits g)), bs)
  | 0x29 => withModrm bs fun g e bs => .ok (.sub (.ewRw (e.map Reg16.ofBits) (.ofBits g)), bs)
  | 0x2A => withModrm bs fun g e bs => .ok (.sub (.rbEb (.ofBits g) (e.map Reg8.ofBits)), bs)
  | 0x2B => withModrm bs fun g e bs => .ok (.sub (.rwEw (.ofBits g) (e.map Reg16.ofBits)), bs)
  | 0x2C => withByte bs fun v bs => .ok (.sub (.alDb v), bs)
  | 0x2D => withWord bs fun v bs => .ok (.sub (.axDw v), bs)
  | 0x2E => .ok (.segCs, bs)
  | 0x2F => .ok (.das, bs)
  | 0x30 => withModrm bs fun g e bs => .ok (.xor (.ebRb (e.map Reg8.ofBits) (.ofBits g)), bs)
  | 0x31 => withModrm bs fun g e bs => .ok (.xor (.ewRw (e.map Reg16.ofBits) (.ofBits g)), bs)
  | 0x32 => withModrm bs fun g e bs => .ok (.xor (.rbEb (.ofBits g) (e.map Reg8.ofBits)), bs)
  | 0x33 => withModrm bs fun g e bs => .ok (.xor (.rwEw (.ofBits g) (e.map Reg16.ofBits)), bs)
  | 0x34 => withByte bs fun v bs => .ok (.xor (.alDb v), bs)
  | 0x35 => withWord bs fun v bs => .ok (.xor (.axDw v), bs)
  | 0x36 => .ok (.segSs, bs)
  | 0x37 => .ok (.aaa, bs)
  | 0x38 => withModrm bs fun g e bs => .ok (.cmp (.ebRb (e.map Reg8.ofBits) (.ofBits g)), bs)
  | 0x39 => withModrm bs fun g e bs => .ok (.cmp (.ewRw (e.map Reg16.ofBits) (.ofBits g)), bs)
  | 0x3A => withModrm bs fun g e bs => .ok (.cmp (.rbEb (.ofBits g) (e.map Reg8.ofBits)), bs)
  | 0x3B => withModrm bs fun g e bs => .ok (.cmp (.rwEw (.ofBits g) (e.map Reg16.ofBits)), bs)
  | 0x3C => withByte bs fun v bs => .ok (.cmp (.alDb v), bs)
  | 0x3D => withWord bs fun v bs => .ok (.cmp (.axDw v), bs)
  | 0x3E => .ok (.segDs, bs)
  | 0x3F => .ok (.aas, bs)
  | 0x40 => .ok (.inc (.rw .ax), bs)
  | 0x41 => .ok (.inc (.rw .cx), bs)
  | 0x42 => .ok (.inc (.rw .dx), bs)
  | 0x43 => .ok (.inc (.rw .bx), bs)
  | 0x44 => .ok (.inc (.rw .sp), bs)
  | 0x45 => .ok (.inc (.rw .bp), bs)
  | 0x46 => .ok (.inc (.rw .si), bs)
  | 0x47 => .ok (.inc (.rw .di), bs)
  | 0x48 => .ok (.dec (.rw .ax), bs)
  | 0x49 => .ok (.dec (.rw .cx), bs)
  | 0x4A => .ok (.dec (.rw .dx), bs)
  | 0x4B => .ok (.dec (.rw .bx), bs)
  | 0x4C => .ok (.dec (.rw .sp), bs)
  | 0x4D => .ok (.dec (.rw .bp), bs)
  | 0x4E => .ok (.dec (.rw .si), bs)
  | 0x4F => .ok (.dec (.rw .di), bs)
  | 0x50 => .ok (.push (.rw .ax), bs)
  | 0x51 => .ok (.push (.rw .cx), bs)
  | 0x52 => .ok (.push (.rw .dx), bs)
  | 0x53 => .ok (.push (.rw .bx), bs)
  | 0x54 => .ok (.push (.rw .sp), bs)
  | 0x55 => .ok (.push (.rw .bp), bs)
  | 0x56 => .ok (.push (.rw .si), bs)
  | 0x57 => .ok (.push (.rw .di), bs)
  | 0x58 => .ok (.pop (.rw .ax), bs)
  | 0x59 => .ok (.pop (.rw .cx), bs)
  | 0x5A => .ok (.pop (.rw .dx), bs)
  | 0x5B => .ok (.pop (.rw .bx), bs)
  | 0x5C => .ok (.pop (.rw .sp), bs)
  | 0x5D => .ok (.pop (.rw .bp), bs)
  | 0x5E => .ok (.pop (.rw .si), bs)
  | 0x5F => .ok (.pop (.rw .di), bs)
  | 0x60 => .ok (.pusha, bs)
  | 0x61 => .ok (.popa, bs)
  | 0x62 => withModrm bs fun g e bs => memOnly e fun m => .ok (.bound (.ofBits g) m, bs)
  | 0x63 => withModrm bs fun g e bs => .ok (.arpl (e.map Reg16.ofBits) (.ofBits g), bs)
  | 0x68 => withWord bs fun v bs => .ok (.push (.dw v), bs)
  | 0x69 => withModrm bs fun g e bs => withWord bs fun v bs => .ok (.imul (.rwEwDw (.ofBits g) (e.map Reg16.ofBits) v), bs)
  | 0x6A => withByte bs fun v bs => .ok (.push (.db v), bs)
  | 0x6B => withModrm bs fun g e bs => withByte bs fun v bs => .ok (.imul (.rwEwDb (.ofBits g) (e.map Reg16.ofBits) v), bs)
  | 0x6C => .ok (.insb, bs)
  | 0x6D => .ok (.insw, bs)
  | 0x6E => .ok (.outsb, bs)
  | 0x6F => .ok (.outsw, bs)
  | 0x70 => withByte bs fun d bs => .ok (.jo d, bs)
  | 0x71 => withByte bs fun d bs => .ok (.jno d, bs)
  | 0x72 => withByte bs fun d bs => .ok (.jb d, bs)
  | 0x73 => withByte bs fun d bs => .ok (.jae d, bs)
  | 0x74 => withByte bs fun d bs => .ok (.je d, bs)
  | 0x75 => withByte bs fun d bs => .ok (.jne d, bs)
  | 0x76 => withByte bs fun d bs => .ok (.jbe d, bs)
  | 0x77 => withByte bs fun d bs => .ok (.ja d, bs)
  | 0x78 => withByte bs fun d bs => .ok (.js d, bs)
  | 0x79 => withByte bs fun d bs => .ok (.jns d, bs)
  | 0x7A => withByte bs fun d bs => .ok (.jp d, bs)
  | 0x7B => withByte bs fun d bs => .ok (.jnp d, bs)
  | 0x7C => withByte bs fun d bs => .ok (.jl d, bs)
  | 0x7D => withByte bs fun d bs => .ok (.jge d, bs)
  | 0x7E => withByte bs fun d bs => .ok (.jle d, bs)
  | 0x7F => withByte bs fun d bs => .ok (.jg d, bs)
  | 0x80 => withModrm bs fun g e bs => withByte bs fun v bs => .ok (group1 g (.ebDb (e.map Reg8.ofBits) v), bs)
  | 0x81 => withModrm bs fun g e bs => withWord bs fun v bs => .ok (group1 g (.ewDw (e.map Reg16.ofBits) v), bs)
  | 0x83 => withModrm bs fun g e bs => withByte bs fun v bs => group1SignExt g (.ewDb (e.map Reg16.ofBits) v) bs
  | 0x84 => withModrm bs fun g e bs => .ok (.test (.ebRb (e.map Reg8.ofBits) (.ofBits g)), bs)
  | 0x85 => withModrm bs fun g e bs => .ok (.test (.ewRw (e.map Reg16.ofBits) (.ofBits g)), bs)
  | 0x86 => withModrm bs fun g e bs => .ok (.xchg (.ebRb (e.map Reg8.ofBits) (.ofBits g)), bs)
  | 0x87 => withModrm bs fun g e bs => .ok (.xchg (.ewRw (e.map Reg16.ofBits) (.ofBits g)), bs)
  | 0x88 => withModrm bs fun g e bs => .ok (.mov (.ebRb (e.map Reg8.ofBits) (.ofBits g)), bs)
  | 0x89 => withModrm bs fun g e bs => .ok (.mov (.ewRw (e.map Reg16.ofBits) (.ofBits g)), bs)
  | 0x8A => withModrm bs fun g e bs => .ok (.mov (.rbEb (.ofBits g) (e.map Reg8.ofBits)), bs)
  | 0x8B => withModrm bs fun g e bs => .ok (.mov (.rwEw (.ofBits g) (e.map Reg16.ofBits)), bs)
  | 0x8C => withModrm bs fun g e bs => withSreg g fun s => .ok (.mov (.ewSreg (e.map Reg16.ofBits) s), bs)
  | 0x8D => withModrm bs fun g e bs => memOnly e fun m => .ok (.lea (.ofBits g) m, bs)
  | 0x8E => withModrm bs fun g e bs => withSreg g fun s => if s = .cs then .error .undefined else .ok (.mov (.sregEw s (e.map Reg16.ofBits)), bs)
  | 0x8F => withModrm bs fun g e bs => if g = 0 then .ok (.pop (.mw (e.map Reg16.ofBits)), bs) else .error .stackGroup
  | 0x90 => .ok (.nop, bs)
  | 0x91 => .ok (.xchg (.axRw .cx), bs)
  | 0x92 => .ok (.xchg (.axRw .dx), bs)
  | 0x93 => .ok (.xchg (.axRw .bx), bs)
  | 0x94 => .ok (.xchg (.axRw .sp), bs)
  | 0x95 => .ok (.xchg (.axRw .bp), bs)
  | 0x96 => .ok (.xchg (.axRw .si), bs)
  | 0x97 => .ok (.xchg (.axRw .di), bs)
  | 0x98 => .ok (.cbw, bs)
  | 0x99 => .ok (.cwd, bs)
  | 0x9A => withWord bs fun off bs => withWord bs fun sel bs => .ok (.call (.far off sel), bs)
  | 0x9B => .ok (.wait, bs)
  | 0x9C => .ok (.pushf, bs)
  | 0x9D => .ok (.popf, bs)
  | 0x9E => .ok (.sahf, bs)
  | 0x9F => .ok (.lahf, bs)
  | 0xA0 => withWord bs fun off bs => .ok (.mov (.alXb off), bs)
  | 0xA1 => withWord bs fun off bs => .ok (.mov (.axXw off), bs)
  | 0xA2 => withWord bs fun off bs => .ok (.mov (.xbAl off), bs)
  | 0xA3 => withWord bs fun off bs => .ok (.mov (.xwAx off), bs)
  | 0xA4 => .ok (.movsb, bs)
  | 0xA5 => .ok (.movsw, bs)
  | 0xA6 => .ok (.cmpsb, bs)
  | 0xA7 => .ok (.cmpsw, bs)
  | 0xA8 => withByte bs fun v bs => .ok (.test (.alDb v), bs)
  | 0xA9 => withWord bs fun v bs => .ok (.test (.axDw v), bs)
  | 0xAA => .ok (.stosb, bs)
  | 0xAB => .ok (.stosw, bs)
  | 0xAC => .ok (.lodsb, bs)
  | 0xAD => .ok (.lodsw, bs)
  | 0xAE => .ok (.scasb, bs)
  | 0xAF => .ok (.scasw, bs)
  | 0xB0 => withByte bs fun v bs => .ok (.mov (.rbDb .al v), bs)
  | 0xB1 => withByte bs fun v bs => .ok (.mov (.rbDb .cl v), bs)
  | 0xB2 => withByte bs fun v bs => .ok (.mov (.rbDb .dl v), bs)
  | 0xB3 => withByte bs fun v bs => .ok (.mov (.rbDb .bl v), bs)
  | 0xB4 => withByte bs fun v bs => .ok (.mov (.rbDb .ah v), bs)
  | 0xB5 => withByte bs fun v bs => .ok (.mov (.rbDb .ch v), bs)
  | 0xB6 => withByte bs fun v bs => .ok (.mov (.rbDb .dh v), bs)
  | 0xB7 => withByte bs fun v bs => .ok (.mov (.rbDb .bh v), bs)
  | 0xB8 => withWord bs fun v bs => .ok (.mov (.rwDw .ax v), bs)
  | 0xB9 => withWord bs fun v bs => .ok (.mov (.rwDw .cx v), bs)
  | 0xBA => withWord bs fun v bs => .ok (.mov (.rwDw .dx v), bs)
  | 0xBB => withWord bs fun v bs => .ok (.mov (.rwDw .bx v), bs)
  | 0xBC => withWord bs fun v bs => .ok (.mov (.rwDw .sp v), bs)
  | 0xBD => withWord bs fun v bs => .ok (.mov (.rwDw .bp v), bs)
  | 0xBE => withWord bs fun v bs => .ok (.mov (.rwDw .si v), bs)
  | 0xBF => withWord bs fun v bs => .ok (.mov (.rwDw .di v), bs)
  | 0xC0 => withModrm bs fun g e bs => withByte bs fun v bs => group2 g (.eb (e.map Reg8.ofBits) (.imm v)) bs
  | 0xC1 => withModrm bs fun g e bs => withByte bs fun v bs => group2 g (.ew (e.map Reg16.ofBits) (.imm v)) bs
  | 0xC2 => withWord bs fun n bs => .ok (.ret (.nearImm n), bs)
  | 0xC3 => .ok (.ret .near, bs)
  | 0xC4 => withModrm bs fun g e bs => memOnly e fun m => .ok (.les (.ofBits g) m, bs)
  | 0xC5 => withModrm bs fun g e bs => memOnly e fun m => .ok (.lds (.ofBits g) m, bs)
  | 0xC6 => withModrm bs fun g e bs => withByte bs fun v bs => if g = 0 then .ok (.mov (.ebDb (e.map Reg8.ofBits) v), bs) else .error .undefined
  | 0xC7 => withModrm bs fun g e bs => withWord bs fun v bs => if g = 0 then .ok (.mov (.ewDw (e.map Reg16.ofBits) v), bs) else .error .undefined
  | 0xC8 => withWord bs fun n bs => withByte bs fun l bs => .ok (.enter n l, bs)
  | 0xC9 => .ok (.leave, bs)
  | 0xCA => withWord bs fun n bs => .ok (.ret (.farImm n), bs)
  | 0xCB => .ok (.ret .far, bs)
  | 0xCC => .ok (.int3, bs)
  | 0xCD => withByte bs fun v bs => .ok (.int v, bs)
  | 0xCE => .ok (.into, bs)
  | 0xCF => .ok (.iret, bs)
  | 0xD0 => withModrm bs fun g e bs => group2 g (.eb (e.map Reg8.ofBits) .one) bs
  | 0xD1 => withModrm bs fun g e bs => group2 g (.ew (e.map Reg16.ofBits) .one) bs
  | 0xD2 => withModrm bs fun g e bs => group2 g (.eb (e.map Reg8.ofBits) .cl) bs
  | 0xD3 => withModrm bs fun g e bs => group2 g (.ew (e.map Reg16.ofBits) .cl) bs
  | 0xD4 => withByte bs fun v bs => if v = 0x0A then .ok (.aam, bs) else .error .adjustByte
  | 0xD5 => withByte bs fun v bs => if v = 0x0A then .ok (.aad, bs) else .error .adjustByte
  | 0xD7 => .ok (.xlat, bs)
  | 0xD8 => withModrm bs fun g e bs => .ok (decodeEsc 0 g e, bs)
  | 0xD9 => withModrm bs fun g e bs => .ok (decodeEsc 1 g e, bs)
  | 0xDA => withModrm bs fun g e bs => .ok (decodeEsc 2 g e, bs)
  | 0xDB => withModrm bs fun g e bs => .ok (decodeEsc 3 g e, bs)
  | 0xDC => withModrm bs fun g e bs => .ok (decodeEsc 4 g e, bs)
  | 0xDD => withModrm bs fun g e bs => .ok (decodeEsc 5 g e, bs)
  | 0xDE => withModrm bs fun g e bs => .ok (decodeEsc 6 g e, bs)
  | 0xDF => withModrm bs fun g e bs => .ok (decodeEsc 7 g e, bs)
  | 0xE0 => withByte bs fun d bs => .ok (.loopne d, bs)
  | 0xE1 => withByte bs fun d bs => .ok (.loope d, bs)
  | 0xE2 => withByte bs fun d bs => .ok (.loop d, bs)
  | 0xE3 => withByte bs fun d bs => .ok (.jcxz d, bs)
  | 0xE4 => withByte bs fun p bs => .ok (.inp (.byteImm p), bs)
  | 0xE5 => withByte bs fun p bs => .ok (.inp (.wordImm p), bs)
  | 0xE6 => withByte bs fun p bs => .ok (.outp (.byteImm p), bs)
  | 0xE7 => withByte bs fun p bs => .ok (.outp (.wordImm p), bs)
  | 0xE8 => withWord bs fun d bs => .ok (.call (.near d), bs)
  | 0xE9 => withWord bs fun d bs => .ok (.jmp (.near d), bs)
  | 0xEA => withWord bs fun off bs => withWord bs fun sel bs => .ok (.jmp (.far off sel), bs)
  | 0xEB => withByte bs fun d bs => .ok (.jmp (.short d), bs)
  | 0xEC => .ok (.inp .byteDx, bs)
  | 0xED => .ok (.inp .wordDx, bs)
  | 0xEE => .ok (.outp .byteDx, bs)
  | 0xEF => .ok (.outp .wordDx, bs)
  | 0xF0 => .ok (.lock, bs)
  | 0xF2 => .ok (.repne, bs)
  | 0xF3 => .ok (.rep, bs)
  | 0xF4 => .ok (.hlt, bs)
  | 0xF5 => .ok (.cmc, bs)
  | 0xF6 => withModrm bs fun g e bs => group3Byte g (e.map Reg8.ofBits) bs
  | 0xF7 => withModrm bs fun g e bs => group3Word g (e.map Reg16.ofBits) bs
  | 0xF8 => .ok (.clc, bs)
  | 0xF9 => .ok (.stc, bs)
  | 0xFA => .ok (.cli, bs)
  | 0xFB => .ok (.sti, bs)
  | 0xFC => .ok (.cld, bs)
  | 0xFD => .ok (.std, bs)
  | 0xFE => withModrm bs fun g e bs => group4 g (e.map Reg8.ofBits) bs
  | 0xFF => withModrm bs fun g e bs => group5 g e bs
  | _ => .error .undefined

/-- Decode the first instruction of a byte sequence. -/
def decode (bs : List Byte) : Decoded :=
  withByte bs fun b bs => decodeOp b.toNat bs

/-! ## The encoder -/

/-- A word as two bytes, low byte first (R260). -/
def wordBytes (w : Word) : List Byte := [w.extractLsb' 0 8, w.extractLsb' 8 8]

/-- A ModRM byte from its three fields (R255). -/
def modrmByte (m : BitVec 2) (g rm : BitVec 3) : Byte := (m ++ g ++ rm : BitVec (2 + 3 + 3))

/-- ModRM byte and displacement of an operand (R255, R258, R263). -/
def modrm (g : BitVec 3) : Rm (BitVec 3) → List Byte
  | .reg r => [modrmByte 3 g r]
  | .mem (.direct w) => modrmByte 0 g 6 :: wordBytes w
  | .mem (.ind b) => [modrmByte 0 g b.bits]
  | .mem (.disp8 b d) => [modrmByte 1 g b.bits, d]
  | .mem (.disp16 b d) => modrmByte 2 g b.bits :: wordBytes d

/-- `+rb`, `+rw`: a register code added to the opcode byte (R256). -/
def plusReg (op : Byte) (r : BitVec 3) : Byte := op + r.setWidth 8

/-- The first byte of an ESC (R288). -/
def escByte (ttt : BitVec 3) : Byte := plusReg 0xD8 ttt

/-- The eight ALU instructions, `n` = 0 to 7 (R280, R281). -/
def encodeAlu (n : BitVec 3) : AluForm → List Byte
  | .ebRb e r => (n ++ (0 : BitVec 3)).setWidth 8 :: modrm r.bits (e.map Reg8.bits)
  | .ewRw e r => (n ++ (1 : BitVec 3)).setWidth 8 :: modrm r.bits (e.map Reg16.bits)
  | .rbEb r e => (n ++ (2 : BitVec 3)).setWidth 8 :: modrm r.bits (e.map Reg8.bits)
  | .rwEw r e => (n ++ (3 : BitVec 3)).setWidth 8 :: modrm r.bits (e.map Reg16.bits)
  | .alDb v => [(n ++ (4 : BitVec 3)).setWidth 8, v]
  | .axDw v => (n ++ (5 : BitVec 3)).setWidth 8 :: wordBytes v
  | .ebDb e v => 0x80 :: modrm n (e.map Reg8.bits) ++ [v]
  | .ewDw e v => 0x81 :: modrm n (e.map Reg16.bits) ++ wordBytes v
  | .ewDb e v => 0x83 :: modrm n (e.map Reg16.bits) ++ [v]

/-- MOV (88 to 8C, 8E, A0 to A3, B0 to BF, C6, C7). -/
def encodeMov : MovForm → List Byte
  | .ebRb e r => 0x88 :: modrm r.bits (e.map Reg8.bits)
  | .ewRw e r => 0x89 :: modrm r.bits (e.map Reg16.bits)
  | .rbEb r e => 0x8A :: modrm r.bits (e.map Reg8.bits)
  | .rwEw r e => 0x8B :: modrm r.bits (e.map Reg16.bits)
  | .ewSreg e s => 0x8C :: modrm s.bits (e.map Reg16.bits)
  | .sregEw s e => 0x8E :: modrm s.bits (e.map Reg16.bits)
  | .alXb w => 0xA0 :: wordBytes w
  | .axXw w => 0xA1 :: wordBytes w
  | .xbAl w => 0xA2 :: wordBytes w
  | .xwAx w => 0xA3 :: wordBytes w
  | .rbDb r v => [plusReg 0xB0 r.bits, v]
  | .rwDw r v => plusReg 0xB8 r.bits :: wordBytes v
  | .ebDb e v => 0xC6 :: modrm 0 (e.map Reg8.bits) ++ [v]
  | .ewDw e v => 0xC7 :: modrm 0 (e.map Reg16.bits) ++ wordBytes v

/-- PUSH (50+rw, 06/0E/16/1E, FF /6, 68, 6A). -/
def encodePush : PushForm → List Byte
  | .rw r => [plusReg 0x50 r.bits]
  | .sreg .es => [0x06]
  | .sreg .cs => [0x0E]
  | .sreg .ss => [0x16]
  | .sreg .ds => [0x1E]
  | .mw e => 0xFF :: modrm 6 (e.map Reg16.bits)
  | .dw v => 0x68 :: wordBytes v
  | .db v => [0x6A, v]

/-- POP (58+rw, 07/17/1F, 8F /0). POP CS has no encoding; the byte given for it is the one R300 names. -/
def encodePop : PopForm → List Byte
  | .rw r => [plusReg 0x58 r.bits]
  | .sreg .es => [0x07]
  | .sreg .cs => [0x0F]
  | .sreg .ss => [0x17]
  | .sreg .ds => [0x1F]
  | .mw e => 0x8F :: modrm 0 (e.map Reg16.bits)

/-- IN and OUT from their four opcodes (E4 to E7, EC to EF). -/
def encodePort (bi wi bd wd : Byte) : PortForm → List Byte
  | .byteImm p => [bi, p]
  | .wordImm p => [wi, p]
  | .byteDx => [bd]
  | .wordDx => [wd]

/-- INC and DEC: FE /n, FF /n and the one-byte form (R284, R285). -/
def encodeInc (n : BitVec 3) (op : Byte) : IncForm → List Byte
  | .eb e => 0xFE :: modrm n (e.map Reg8.bits)
  | .ew e => 0xFF :: modrm n (e.map Reg16.bits)
  | .rw r => [plusReg op r.bits]

/-- Group 3 (R283). -/
def encodeUnary (n : BitVec 3) : UnaryForm → List Byte
  | .eb e => 0xF6 :: modrm n (e.map Reg8.bits)
  | .ew e => 0xF7 :: modrm n (e.map Reg16.bits)

/-- Group 2 (R282). -/
def encodeShift (n : BitVec 3) : ShiftForm → List Byte
  | .eb e .one => 0xD0 :: modrm n (e.map Reg8.bits)
  | .ew e .one => 0xD1 :: modrm n (e.map Reg16.bits)
  | .eb e .cl => 0xD2 :: modrm n (e.map Reg8.bits)
  | .ew e .cl => 0xD3 :: modrm n (e.map Reg16.bits)
  | .eb e (.imm v) => 0xC0 :: modrm n (e.map Reg8.bits) ++ [v]
  | .ew e (.imm v) => 0xC1 :: modrm n (e.map Reg16.bits) ++ [v]

/-- 80287 arithmetic: `n` for memory and ST,ST(i), `n'` for ST(i),ST (R814). -/
def encodeArith (n n' : BitVec 3) : ArithForm → List Byte
  | .m32 m => 0xD8 :: modrm n (.mem m)
  | .m64 m => 0xDC :: modrm n (.mem m)
  | .stSti i => 0xD8 :: modrm n (.reg i)
  | .stiSt i => 0xDC :: modrm n' (.reg i)

/-- 80287 integer-operand arithmetic and compare (DE /n, DA /n). -/
def encodeInt (n : BitVec 3) : IntForm → List Byte
  | .m16 m => 0xDE :: modrm n (.mem m)
  | .m32 m => 0xDA :: modrm n (.mem m)

/-- FCOM and FCOMP. -/
def encodeCompare (n : BitVec 3) : RealForm → List Byte
  | .m32 m => 0xD8 :: modrm n (.mem m)
  | .m64 m => 0xDC :: modrm n (.mem m)
  | .st i => 0xD8 :: modrm n (.reg i)

/-- The bytes of an instruction, without prefixes. -/
def encode : Instr → List Byte
  | .add f => encodeAlu 0 f
  | .or f => encodeAlu 1 f
  | .adc f => encodeAlu 2 f
  | .sbb f => encodeAlu 3 f
  | .and f => encodeAlu 4 f
  | .sub f => encodeAlu 5 f
  | .xor f => encodeAlu 6 f
  | .cmp f => encodeAlu 7 f
  | .mov f => encodeMov f
  | .push f => encodePush f
  | .pop f => encodePop f
  | .pusha => [0x60]
  | .popa => [0x61]
  | .pushf => [0x9C]
  | .popf => [0x9D]
  | .xchg (.ebRb e r) => 0x86 :: modrm r.bits (e.map Reg8.bits)
  | .xchg (.ewRw e r) => 0x87 :: modrm r.bits (e.map Reg16.bits)
  | .xchg (.axRw r) => [plusReg 0x90 r.bits]
  | .xlat => [0xD7]
  | .inp f => encodePort 0xE4 0xE5 0xEC 0xED f
  | .outp f => encodePort 0xE6 0xE7 0xEE 0xEF f
  | .lea r m => 0x8D :: modrm r.bits (.mem m)
  | .lds r m => 0xC5 :: modrm r.bits (.mem m)
  | .les r m => 0xC4 :: modrm r.bits (.mem m)
  | .lahf => [0x9F]
  | .sahf => [0x9E]
  | .cbw => [0x98]
  | .cwd => [0x99]
  | .inc f => encodeInc 0 0x40 f
  | .dec f => encodeInc 1 0x48 f
  | .not f => encodeUnary 2 f
  | .neg f => encodeUnary 3 f
  | .mul f => encodeUnary 4 f
  | .imul (.eb e) => 0xF6 :: modrm 5 (e.map Reg8.bits)
  | .imul (.ew e) => 0xF7 :: modrm 5 (e.map Reg16.bits)
  | .imul (.rwEwDw r e v) => 0x69 :: modrm r.bits (e.map Reg16.bits) ++ wordBytes v
  | .imul (.rwEwDb r e v) => 0x6B :: modrm r.bits (e.map Reg16.bits) ++ [v]
  | .div f => encodeUnary 6 f
  | .idiv f => encodeUnary 7 f
  | .daa => [0x27]
  | .das => [0x2F]
  | .aaa => [0x37]
  | .aas => [0x3F]
  | .aam => [0xD4, 0x0A]
  | .aad => [0xD5, 0x0A]
  | .test (.ebRb e r) => 0x84 :: modrm r.bits (e.map Reg8.bits)
  | .test (.ewRw e r) => 0x85 :: modrm r.bits (e.map Reg16.bits)
  | .test (.alDb v) => [0xA8, v]
  | .test (.axDw v) => 0xA9 :: wordBytes v
  | .test (.ebDb e v) => 0xF6 :: modrm 0 (e.map Reg8.bits) ++ [v]
  | .test (.ewDw e v) => 0xF7 :: modrm 0 (e.map Reg16.bits) ++ wordBytes v
  | .rol f => encodeShift 0 f
  | .ror f => encodeShift 1 f
  | .rcl f => encodeShift 2 f
  | .rcr f => encodeShift 3 f
  | .shl f => encodeShift 4 f
  | .shr f => encodeShift 5 f
  | .sar f => encodeShift 7 f
  | .movsb => [0xA4]
  | .movsw => [0xA5]
  | .cmpsb => [0xA6]
  | .cmpsw => [0xA7]
  | .scasb => [0xAE]
  | .scasw => [0xAF]
  | .lodsb => [0xAC]
  | .lodsw => [0xAD]
  | .stosb => [0xAA]
  | .stosw => [0xAB]
  | .insb => [0x6C]
  | .insw => [0x6D]
  | .outsb => [0x6E]
  | .outsw => [0x6F]
  | .rep => [0xF3]
  | .repne => [0xF2]
  | .jmp (.short d) => [0xEB, d]
  | .jmp (.near d) => 0xE9 :: wordBytes d
  | .jmp (.ew e) => 0xFF :: modrm 4 (e.map Reg16.bits)
  | .jmp (.far off sel) => 0xEA :: wordBytes off ++ wordBytes sel
  | .jmp (.ed m) => 0xFF :: modrm 5 (.mem m)
  | .jo d => [0x70, d]
  | .jno d => [0x71, d]
  | .jb d => [0x72, d]
  | .jae d => [0x73, d]
  | .je d => [0x74, d]
  | .jne d => [0x75, d]
  | .jbe d => [0x76, d]
  | .ja d => [0x77, d]
  | .js d => [0x78, d]
  | .jns d => [0x79, d]
  | .jp d => [0x7A, d]
  | .jnp d => [0x7B, d]
  | .jl d => [0x7C, d]
  | .jge d => [0x7D, d]
  | .jle d => [0x7E, d]
  | .jg d => [0x7F, d]
  | .loopne d => [0xE0, d]
  | .loope d => [0xE1, d]
  | .loop d => [0xE2, d]
  | .jcxz d => [0xE3, d]
  | .call (.near d) => 0xE8 :: wordBytes d
  | .call (.ew e) => 0xFF :: modrm 2 (e.map Reg16.bits)
  | .call (.far off sel) => 0x9A :: wordBytes off ++ wordBytes sel
  | .call (.ed m) => 0xFF :: modrm 3 (.mem m)
  | .ret .near => [0xC3]
  | .ret (.nearImm n) => 0xC2 :: wordBytes n
  | .ret .far => [0xCB]
  | .ret (.farImm n) => 0xCA :: wordBytes n
  | .int v => [0xCD, v]
  | .int3 => [0xCC]
  | .into => [0xCE]
  | .iret => [0xCF]
  | .clc => [0xF8]
  | .stc => [0xF9]
  | .cmc => [0xF5]
  | .cld => [0xFC]
  | .std => [0xFD]
  | .cli => [0xFA]
  | .sti => [0xFB]
  | .hlt => [0xF4]
  | .nop => [0x90]
  | .lock => [0xF0]
  | .segEs => [0x26]
  | .segCs => [0x2E]
  | .segSs => [0x36]
  | .segDs => [0x3E]
  | .enter n l => 0xC8 :: wordBytes n ++ [l]
  | .leave => [0xC9]
  | .bound r m => 0x62 :: modrm r.bits (.mem m)
  | .wait => [0x9B]
  | .esc ttt n rm => escByte ttt :: modrm n rm
  | .arpl e r => 0x63 :: modrm r.bits (e.map Reg16.bits)
  | .sldt e => 0x0F :: 0x00 :: modrm 0 (e.map Reg16.bits)
  | .str e => 0x0F :: 0x00 :: modrm 1 (e.map Reg16.bits)
  | .lldt e => 0x0F :: 0x00 :: modrm 2 (e.map Reg16.bits)
  | .ltr e => 0x0F :: 0x00 :: modrm 3 (e.map Reg16.bits)
  | .verr e => 0x0F :: 0x00 :: modrm 4 (e.map Reg16.bits)
  | .verw e => 0x0F :: 0x00 :: modrm 5 (e.map Reg16.bits)
  | .sgdt m => 0x0F :: 0x01 :: modrm 0 (.mem m)
  | .sidt m => 0x0F :: 0x01 :: modrm 1 (.mem m)
  | .lgdt m => 0x0F :: 0x01 :: modrm 2 (.mem m)
  | .lidt m => 0x0F :: 0x01 :: modrm 3 (.mem m)
  | .smsw e => 0x0F :: 0x01 :: modrm 4 (e.map Reg16.bits)
  | .lmsw e => 0x0F :: 0x01 :: modrm 6 (e.map Reg16.bits)
  | .lar r e => 0x0F :: 0x02 :: modrm r.bits (e.map Reg16.bits)
  | .lsl r e => 0x0F :: 0x03 :: modrm r.bits (e.map Reg16.bits)
  | .clts => [0x0F, 0x06]
  | .fld (.m32 m) => 0xD9 :: modrm 0 (.mem m)
  | .fld (.m64 m) => 0xDD :: modrm 0 (.mem m)
  | .fld (.m80 m) => 0xDB :: modrm 5 (.mem m)
  | .fld (.st i) => 0xD9 :: modrm 0 (.reg i)
  | .fst (.m32 m) => 0xD9 :: modrm 2 (.mem m)
  | .fst (.m64 m) => 0xDD :: modrm 2 (.mem m)
  | .fst (.st i) => 0xDD :: modrm 2 (.reg i)
  | .fstp (.m32 m) => 0xD9 :: modrm 3 (.mem m)
  | .fstp (.m64 m) => 0xDD :: modrm 3 (.mem m)
  | .fstp (.m80 m) => 0xDB :: modrm 7 (.mem m)
  | .fstp (.st i) => 0xDD :: modrm 3 (.reg i)
  | .fxch i => 0xD9 :: modrm 1 (.reg i)
  | .fild (.m16 m) => 0xDF :: modrm 0 (.mem m)
  | .fild (.m32 m) => 0xDB :: modrm 0 (.mem m)
  | .fild (.m64 m) => 0xDF :: modrm 5 (.mem m)
  | .fist (.m16 m) => 0xDF :: modrm 2 (.mem m)
  | .fist (.m32 m) => 0xDB :: modrm 2 (.mem m)
  | .fistp (.m16 m) => 0xDF :: modrm 3 (.mem m)
  | .fistp (.m32 m) => 0xDB :: modrm 3 (.mem m)
  | .fistp (.m64 m) => 0xDF :: modrm 7 (.mem m)
  | .fbld m => 0xDF :: modrm 4 (.mem m)
  | .fbstp m => 0xDF :: modrm 6 (.mem m)
  | .fadd f => encodeArith 0 0 f
  | .faddp i => 0xDE :: modrm 0 (.reg i)
  | .fiadd f => encodeInt 0 f
  | .fmul f => encodeArith 1 1 f
  | .fmulp i => 0xDE :: modrm 1 (.reg i)
  | .fimul f => encodeInt 1 f
  | .fsub f => encodeArith 4 5 f
  | .fsubp i => 0xDE :: modrm 5 (.reg i)
  | .fisub f => encodeInt 4 f
  | .fsubr f => encodeArith 5 4 f
  | .fsubrp i => 0xDE :: modrm 4 (.reg i)
  | .fisubr f => encodeInt 5 f
  | .fdiv f => encodeArith 6 7 f
  | .fdivp i => 0xDE :: modrm 7 (.reg i)
  | .fidiv f => encodeInt 6 f
  | .fdivr f => encodeArith 7 6 f
  | .fdivrp i => 0xDE :: modrm 6 (.reg i)
  | .fidivr f => encodeInt 7 f
  | .fsqrt => [0xD9, 0xFA]
  | .fscale => [0xD9, 0xFD]
  | .fprem => [0xD9, 0xF8]
  | .frndint => [0xD9, 0xFC]
  | .fxtract => [0xD9, 0xF4]
  | .fabs => [0xD9, 0xE1]
  | .fchs => [0xD9, 0xE0]
  | .fcom f => encodeCompare 2 f
  | .fcomp f => encodeCompare 3 f
  | .fcompp => [0xDE, 0xD9]
  | .ficom f => encodeInt 2 f
  | .ficomp f => encodeInt 3 f
  | .ftst => [0xD9, 0xE4]
  | .fxam => [0xD9, 0xE5]
  | .fptan => [0xD9, 0xF2]
  | .fpatan => [0xD9, 0xF3]
  | .f2xm1 => [0xD9, 0xF0]
  | .fyl2x => [0xD9, 0xF1]
  | .fyl2xp1 => [0xD9, 0xF9]
  | .fldz => [0xD9, 0xEE]
  | .fld1 => [0xD9, 0xE8]
  | .fldpi => [0xD9, 0xEB]
  | .fldl2t => [0xD9, 0xE9]
  | .fldl2e => [0xD9, 0xEA]
  | .fldlg2 => [0xD9, 0xEC]
  | .fldln2 => [0xD9, 0xED]
  | .finit => [0xDB, 0xE3]
  | .fsetpm => [0xDB, 0xE4]
  | .fldcw m => 0xD9 :: modrm 5 (.mem m)
  | .fstcw m => 0xD9 :: modrm 7 (.mem m)
  | .fstsw m => 0xDD :: modrm 7 (.mem m)
  | .fstswAx => [0xDF, 0xE0]
  | .fclex => [0xDB, 0xE2]
  | .fstenv m => 0xD9 :: modrm 6 (.mem m)
  | .fldenv m => 0xD9 :: modrm 4 (.mem m)
  | .fsave m => 0xDD :: modrm 6 (.mem m)
  | .frstor m => 0xDD :: modrm 4 (.mem m)
  | .fincstp => [0xD9, 0xF7]
  | .fdecstp => [0xD9, 0xF6]
  | .ffree i => 0xDD :: modrm 0 (.reg i)
  | .fnop => [0xD9, 0xD0]
  | .feni => [0xDB, 0xE0]
  | .fdisi => [0xDB, 0xE1]
  | .fstpAlias1 i => 0xD9 :: modrm 3 (.reg i)
  | .fcomAlias2 i => 0xDC :: modrm 2 (.reg i)
  | .fcompAlias3 i => 0xDC :: modrm 3 (.reg i)
  | .fxchAlias4 i => 0xDD :: modrm 1 (.reg i)
  | .fcompAlias5 i => 0xDE :: modrm 2 (.reg i)
  | .ffreePopAlias6 i => 0xDF :: modrm 0 (.reg i)
  | .fxchAlias7 i => 0xDF :: modrm 1 (.reg i)
  | .fstpAlias8 i => 0xDF :: modrm 2 (.reg i)
  | .fstpAlias9 i => 0xDF :: modrm 3 (.reg i)

/-! ## The opcode table's numbering -/

/-- The low `8 * n` bits of a number as `n` bytes, most significant first: the opcode table numbers the bits of a row's
bytes so that the first byte is the most significant (log 12). -/
def tableBytes (w : Nat) : Nat → List Byte
  | 0 => []
  | n + 1 => BitVec.ofNat 8 (w / 256 ^ n) :: tableBytes w n

/-- The bytes of the table word followed by zeros, ten in all (the longest instruction, R251). -/
def tableImage (nbits w : Nat) : List Byte :=
  (tableBytes w (nbits / 8) ++ List.replicate 10 0).take 10

/-- The instruction the decoder reads from an opcode-table word. -/
def decodeTableWord (nbits w : Nat) : Option Instr :=
  match decode (tableImage nbits w) with
  | .ok (i, _) => some i
  | .error _ => none

end Sys2Proof
end

