-- ==== Sys2Proof/Config.lean ====
section
/-! DEFINITION. The free values: constants without a body, which stand for the values the manual leaves open. A step
applies them to the counter State.free and advances it, so that every draw is independent (log 9). The five transcendental
functions are the parameters Transc.<name> of D56 (log 13); two of them can underflow and have an unmasked response too. -/

namespace Sys2Proof.Config

/-- The open bit of draw `n`. -/
opaque freeBit : Nat → Bool

/-- The open byte of draw `n`. -/
opaque freeByte : Nat → Byte

/-- The open word of draw `n`. -/
opaque freeWord : Nat → Word

/-- The open 24-bit base of draw `n`. -/
opaque freeAddr : Nat → Addr

/-- The open 80-bit register of draw `n`. -/
opaque freeTemp : Nat → Temp

/-- The open choice of draw `n`, taken modulo the number of choices. -/
opaque freeNat : Nat → Nat

/-- What a read of an address without memory answers in step `n` (20_memory.md R129, log 70). -/
opaque openByte (n : Nat) (a : Addr) : Byte

/-- `Transc.F2XM1`: 2^x - 1 for 0 <= x <= 1/2 (R851). -/
opaque f2xm1 : Temp → Temp

/-- Whether `Transc.F2XM1` of a zero is that zero: Table 1-10 (R752) prints so, R848 lets nothing be assumed of it (log 73). -/
opaque f2xm1KeepsZero : Bool

/-- `Transc.FPTAN`: the pair (y, x) with y / x = tan of the operand, 0 <= operand <= pi/4 (R849). -/
opaque fptan : Temp → Temp × Temp

/-- `Transc.FPATAN`: arctan (y / x), 0 < y < x (R850, C60). -/
opaque fpatan (y x : Temp) : Temp

/-- What F2XM1 writes after an unmasked underflow: the rounded result, its exponent modulo 2^15 (D47). -/
opaque f2xm1Unmasked : Temp → Temp

/-- What FPATAN writes after an unmasked underflow (D47). -/
opaque fpatanUnmasked (y x : Temp) : Temp

/-- `Transc.FYL2X`: y * log2 x, x > 0 (R852). -/
opaque fyl2x (y x : Temp) : Temp

/-- `Transc.FYL2XP1`: y * log2 (x + 1), 0 <= |x| < 1 - sqrt 2 / 2 (R853). -/
opaque fyl2xp1 (y x : Temp) : Temp

end Sys2Proof.Config
end

