-- ==== Sys2Proof/Machine/State.lean ====
section
/-! DEFINITION. The state of the machine as plain data, its two kinds of stop, and the state after reset. Each field
cites the rule of spec/ that names it; INVENTORY.md lists them with their reset values. -/

namespace Sys2Proof.Machine

/-- A segment register: the visible selector and the hidden descriptor cache (10_state.md R34, R39). -/
structure SegReg where
  sel : Word
  base : Addr
  limit : Word
  access : Byte
  valid : Bool
  deriving DecidableEq, Repr

/-- GDTR and IDTR: base and limit (R50, R51). -/
structure TableReg where
  base : Addr
  limit : Word
  deriving DecidableEq, Repr

/-- LDTR and TR: a selector with hidden base and limit (R52, R53). -/
structure SysReg where
  sel : Word
  base : Addr
  limit : Word
  valid : Bool
  deriving DecidableEq, Repr

/-- Running, halted by HLT, or in shutdown (R58). -/
inductive RunState where
  | running
  | halted
  | shutdown
  deriving DecidableEq, Repr

/-- The two repeat prefixes F3 and F2 (R252). -/
inductive RepKind where
  | rep
  | repne
  deriving DecidableEq, Repr

/-- The prefixes collected for the instruction being decoded (R252, R275); `count` is the number of prefix bytes. -/
structure Prefixes where
  count : Nat
  seg : Option Sreg
  rep : Option RepKind
  lock : Bool
  deriving DecidableEq, Repr

/-- No prefix seen: the machine is at an instruction boundary. -/
def Prefixes.none : Prefixes := { count := 0, seg := .none, rep := .none, lock := false }

/-- A decoded instruction whose execution goes on in the next step: a repeated string instruction between two iterations
(43_string.md R480), or one that waits for BUSY (45_flag_misc_extended.md R561). `ip` and `ipCarry` are those after it. -/
structure Held where
  instr : Instr
  pfx : Prefixes
  ip : Word
  ipCarry : Bool
  deriving DecidableEq, Repr

/-- One of the 80287's two address registers, held in both of its representations (R727). -/
structure NpxPointer where
  sel : Word
  off : Word
  real : BitVec 20
  deriving DecidableEq, Repr

/-- Which representation of the pointers the 80287 holds: both after an instruction, one after a load (U23). -/
inductive PointerForm where
  | both
  | real
  | prot
  deriving DecidableEq, Repr

/-- The 80287 (48_npx_state_and_data.md R731). -/
structure Npx where
  regs : Vector Temp 8
  empty : BitVec 8
  control : Word
  /-- The status word without B and ES, which are derived (R719, R732). -/
  status : Word
  ip : NpxPointer
  op : NpxPointer
  opcode : BitVec 11
  form : PointerForm
  pm : Bool
  busy : Bool
  deriving DecidableEq, Repr

/-- One access that the platform sees: of a port (R125), or a byte stored where there is no memory (R127). -/
inductive IoEvent where
  | input (port : Word) (value : Byte)
  | output (port : Word) (value : Byte)
  | store (address : Addr) (value : Byte)
  deriving DecidableEq, Repr

/-- What is at a physical address: RAM, ROM, or no memory, so that a device answers or nothing does (00_scope.md R7,
20_memory.md R127, R129). -/
inductive MemKind where
  | ram
  | rom
  | other
  deriving DecidableEq, Repr

/-- A range of physical addresses, its first and its last among them. -/
structure Region where
  first : Addr
  last : Addr
  kind : MemKind
  deriving DecidableEq, Repr

/-- The parameter `MEM` (00_scope.md R7): the ranges that are not RAM throughout, the first that holds an address deciding,
and whether external hardware forces A23 to A20 low in Real Address Mode (20_memory.md R103, D6). -/
structure Platform where
  regions : List Region
  masksHigh : Bool
  deriving DecidableEq, Repr

/-- RAM at every address, no masking (log 4). -/
def Platform.flat : Platform := { regions := [], masksHigh := false }

/-- The platform's inputs during one step (R930). -/
structure Inputs where
  reset : Bool
  /-- A rising edge of NMI. -/
  nmi : Bool
  /-- The level of INTR. -/
  intr : Bool
  /-- What `IntrVector()` answers. -/
  vector : Byte
  /-- The bytes that other bus masters write to memory before the step, in order (00_scope.md R18, 20_memory.md R135). -/
  writes : List (Addr × Byte)
  deriving DecidableEq, Repr

/-- The machine: the 80286, its 80287, memory, and the model's own bookkeeping. -/
structure State where
  -- general registers (R30) and IP (R41)
  ax : Word
  cx : Word
  dx : Word
  bx : Word
  sp : Word
  bp : Word
  si : Word
  di : Word
  ip : Word
  -- sequential execution has passed offset FFFFH: the next instruction byte lies at 10000H (R42, R118; log 14)
  ipCarry : Bool
  -- FLAGS (R43) and MSW (R47)
  flags : Word
  msw : Word
  -- segment registers (R34)
  es : SegReg
  cs : SegReg
  ss : SegReg
  ds : SegReg
  -- table and task registers (R50 to R53)
  gdtr : TableReg
  idtr : TableReg
  ldtr : SysReg
  tr : SysReg
  -- the 80287 and whether it is fitted (R711)
  npx : Npx
  npxPresent : Bool
  -- physical memory (R55): see Machine/Memory.lean for its canonical form; which addresses hold it (R7)
  mem : List Host.Cell
  platform : Platform
  -- run state and latches (R56 to R58, R61)
  run : RunState
  inhibitAll : Bool
  inhibitIntr : Bool
  nmiPending : Bool
  nmiInService : Bool
  mpPending : Bool
  stepPending : Bool
  tfAtStart : Bool
  -- the instruction being decoded: offset of its first byte, prefixes seen (R275)
  istart : Word
  pfx : Prefixes
  -- the instruction that goes on in the next step (R480, R561)
  held : Option Held
  -- bytes overwritten since the last control transfer, with their old values (U5)
  stale : List Host.Cell
  -- the platform: accesses made so far, inputs of the coming steps (R125, R930)
  ioTrace : List IoEvent
  inputs : List Inputs
  -- the model's own counters: of free values (log 9), of steps (log 70)
  free : Nat
  clock : Nat
  deriving DecidableEq, Repr

/-- The stops that are no refusal. The processor itself never stops: what it detects are exceptions, halt and shutdown,
which are next states. -/
inductive Fault where
  /-- The term `Instr.esc` was given an encoding that another constructor stands for; the decoder never gives such
  a term. Raised by the meaning of ESC. Safe. -/
  | assignedEncoding
  deriving DecidableEq, Repr

/-- What the spec refuses to define. -/
inductive Refusal where
  /-- The instruction has no meaning yet. Raised by exec. Safe. -/
  | notModelled (mnemonic : String)
  /-- D4 or D5 with a second byte other than 0AH (U9). Raised by the fetch. Safe. -/
  | adjustImmediate
  /-- A program's own access to ports 00F8H to 00FFH with an 80287 fitted (U4). Raised by the port operations. Safe. -/
  | npxPort
  /-- PE set while CS selector bits 1:0 are not 0 (U22). Raised by LMSW. Safe. -/
  | protectedModeCpl
  deriving DecidableEq, Repr

/-- A segment register after reset: everything allowed, limit FFFFH (R980; the access byte 93H is log 3). -/
def SegReg.atReset (sel : Word) (base : Addr) : SegReg :=
  { sel := sel, base := base, limit := 0xFFFF, access := 0x93, valid := true }

/-- The 80287 after reset (R736); the unspecified registers and pointers are 0 (log 2). -/
def Npx.atReset : Npx :=
  { regs := Vector.replicate 8 0
    empty := 0xFF
    control := 0x03FF
    status := 0
    ip := { sel := 0, off := 0, real := 0 }
    op := { sel := 0, off := 0, real := 0 }
    opcode := 0
    form := .both
    pm := false
    busy := false }

/-- The machine right after reset (70_reset_and_hazards.md R980, R982). -/
def State.reset : State :=
  { ax := 0, cx := 0, dx := 0, bx := 0, sp := 0, bp := 0, si := 0, di := 0
    ip := 0xFFF0
    ipCarry := false
    flags := 0x0002
    msw := 0xFFF0
    es := .atReset 0 0
    cs := .atReset 0xF000 0xFF0000
    ss := .atReset 0 0
    ds := .atReset 0 0
    gdtr := { base := 0, limit := 0 }
    idtr := { base := 0, limit := 0x03FF }
    ldtr := { sel := 0, base := 0, limit := 0, valid := false }
    tr := { sel := 0, base := 0, limit := 0, valid := false }
    npx := .atReset
    npxPresent := true
    mem := []
    platform := .flat
    run := .running
    inhibitAll := false
    inhibitIntr := false
    nmiPending := false
    nmiInService := false
    mpPending := false
    stepPending := false
    tfAtStart := false
    istart := 0
    pfx := .none
    held := none
    stale := []
    ioTrace := []
    inputs := []
    free := 0
    clock := 0 }

end Sys2Proof.Machine
end

