-- ==== Sys2Proof/Machine/Memory.lean ====
section
/-! DEFINITION. Physical memory as a list of (address, byte) pairs in one canonical form: addresses strictly rising, none
above FFFFFFH, no entry equal to what an unlisted address reads as; which addresses hold memory is the platform's
(20_memory.md R100, R105, R128, R129; log 4). -/

namespace Sys2Proof.Machine

/-- What an unlisted address reads as. The spec leaves the contents of memory at power-on open (R982). DESIGN CHOICE:
00H (log 4), unsafe. -/
def Memory.blank : Byte := 0

/-- The byte at an address. -/
def Memory.read : List Host.Cell → Nat → Byte
  | [], _ => blank
  | (k, v) :: t, a => if k = a then v else read t a

/-- Add an entry in front, unless it says what an unlisted address reads as. -/
def Memory.put (a : Nat) (v : Byte) (t : List Host.Cell) : List Host.Cell :=
  if v = blank then t else (a, v) :: t

/-- Store a byte, keeping the canonical form. -/
def Memory.write : List Host.Cell → Nat → Byte → List Host.Cell
  | [], a, v => put a v []
  | (k, w) :: t, a, v =>
    if a < k then put a v ((k, w) :: t)
    else if a = k then put a v t
    else (k, w) :: write t a v

/-- Addresses strictly above `lo`, strictly rising, below 2^24, with no blank entry. -/
def Memory.wfFrom (lo : Option Nat) : List Host.Cell → Bool
  | [] => true
  | (k, v) :: t => (match lo with | none => true | some l => decide (l < k)) && decide (k < 2 ^ 24) && v != blank && wfFrom (some k) t

/-- The canonical form. -/
def Memory.wf (m : List Host.Cell) : Bool := wfFrom none m

/-- What is at a physical address: the first region that holds it decides, and an address in none is RAM (R7). -/
def Platform.kindAt (p : Platform) (a : Addr) : MemKind :=
  match p.regions.find? fun r => decide (r.first.toNat ≤ a.toNat) && decide (a.toNat ≤ r.last.toNat) with
  | some r => r.kind
  | none => .ram

/-- MSW.PE: Protected Mode (R47). -/
def State.pe (s : State) : Bool := s.msw.getLsbD 0

/-- The address on the bus: A23 to A20 are low in Real Address Mode where the platform masks them (R103, D6). -/
def State.physical (s : State) (a : Addr) : Addr := if s.platform.masksHigh && !s.pe then a &&& 0x0FFFFF else a

/-- The byte that a 24-bit address answers (`PhysRead`, 00_scope.md R11): where there is no memory, what the platform puts on
the bus (R129, log 70). -/
def State.readByte (s : State) (a : Addr) : Byte :=
  let p := s.physical a
  match s.platform.kindAt p with
  | .other => Config.openByte s.clock p
  | _ => Memory.read s.mem p.toNat

/-- The little-endian word at a 24-bit address; the second byte's address wraps modulo 2^24 (R100, D7). -/
def State.readWord (s : State) (a : Addr) : Word := s.readByte (a + 1) ++ s.readByte a

/-- Memory after a byte was sent to a physical address: RAM takes it, elsewhere it is lost (R129). -/
def State.ramAfter (s : State) (p : Addr) (v : Byte) : List Host.Cell :=
  if s.platform.kindAt p = .ram then Memory.write s.mem p.toNat v else s.mem

/-- The old value of a byte that RAM takes stays fetchable until the next control transfer (R130, U5). -/
def State.staleAfter (s : State) (p : Addr) : List Host.Cell :=
  if s.platform.kindAt p = .ram then (p.toNat, Memory.read s.mem p.toNat) :: s.stale else s.stale

/-- The platform sees a byte that meets no memory (R127, R129). -/
def State.traceAfter (s : State) (p : Addr) (v : Byte) : List IoEvent :=
  if s.platform.kindAt p = .other then .store p v :: s.ioTrace else s.ioTrace

/-- Another bus master stores a byte at a physical address. -/
def State.setRam (s : State) (p : Addr) (v : Byte) : State :=
  { s with mem := s.ramAfter p v, stale := s.staleAfter p }

/-- Store a byte (`PhysWrite`). -/
def State.writeByte (s : State) (a : Addr) (v : Byte) : State :=
  { s with
    mem := s.ramAfter (s.physical a) v, stale := s.staleAfter (s.physical a), ioTrace := s.traceAfter (s.physical a) v }

/-- Store a little-endian word, low byte first (R100). -/
def State.writeWord (s : State) (a : Addr) (v : Word) : State :=
  (s.writeByte a (v.extractLsb' 0 8)).writeByte (a + 1) (v.extractLsb' 8 8)

end Sys2Proof.Machine
end

