-- ==== Sys2Proof/Machine/Exec.lean ====
section
/-! DEFINITION. The steps a meaning is built from: what can stop it, registers and flags, free values. -/

namespace Sys2Proof.Machine

/-! ## Exceptions and stops -/

/-- An exception: its vector and the error code it pushes in Protected Mode, without the EXT bit (60_exceptions.md R901, R912). -/
structure Exn where
  vec : Byte
  code : Option Word
  deriving DecidableEq, Repr

/-- The error code that names a selector: its upper 14 bits (R912). -/
def selectorCode (sel : Word) : Word := sel &&& 0xFFFC

/-- #DE, divide error (R916). -/
def Exn.de : Exn := ⟨0, none⟩
/-- #BR, bound range (R920). -/
def Exn.br : Exn := ⟨5, none⟩
/-- #UD, invalid opcode (R921). -/
def Exn.ud : Exn := ⟨6, none⟩
/-- #NM, processor extension not available (R922). -/
def Exn.nm : Exn := ⟨7, none⟩
/-- #TS with a selector (R925). -/
def Exn.ts (sel : Word) : Exn := ⟨10, some (selectorCode sel)⟩
/-- #NP with a selector (R926). -/
def Exn.np (sel : Word) : Exn := ⟨11, some (selectorCode sel)⟩
/-- #SS with a selector, or #SS(0) (R927). -/
def Exn.ss (sel : Word) : Exn := ⟨12, some (selectorCode sel)⟩
/-- #GP with a selector, or #GP(0) (R928). -/
def Exn.gp (sel : Word) : Exn := ⟨13, some (selectorCode sel)⟩
/-- #MF, processor extension error (R929). -/
def Exn.mf : Exn := ⟨16, none⟩

/-- What ends a meaning before it completes. -/
inductive Stop where
  /-- An exception. `kept = false`: the state is the one at the start of the instruction (R903); `kept = true`: it is
  the state at the raise, whose IP is the address to be saved. -/
  | exn (x : Exn) (kept : Bool)
  /-- Real Address Mode shutdown for lack of stack space (R950). -/
  | shutdown
  | refused (r : Refusal)
  | fault (f : Fault)
  deriving DecidableEq, Repr

/-- A piece of a meaning: it reads and changes the state, answers a value, or stops. -/
abbrev Exec := EStateM Stop State

/-- Read something of the state. -/
def look {α : Type} (f : State → α) : Exec α := fun s => .ok (f s) s

/-- Change the state. -/
def update (f : State → State) : Exec Unit := fun s => .ok () (f s)

/-- `raise #XX(code)`: the instruction has changed nothing (R11, R903). -/
def raise {α : Type} (x : Exn) : Exec α := fun s => .error (.exn x false) s

/-- Raise an exception in the state reached, whose IP is the address to be saved (R643, R904). -/
def raiseKept {α : Type} (x : Exn) : Exec α := fun s => .error (.exn x true) s

/-- End with another stop. -/
def stop {α : Type} (e : Stop) : Exec α := fun s => .error e s

/-- Raise `x` unless the condition holds. -/
def require (c : Bool) (x : Exn) : Exec Unit := if c then pure () else raise x

/-- Take the value or raise the exception. -/
def ofExcept {α : Type} : Except Exn α → Exec α
  | .ok v => pure v
  | .error x => raise x

/-! ## Bits -/

/-- Set bit `i` of a word to `b`. -/
def putBit {n : Nat} (w : BitVec n) (i : Nat) (b : Bool) : BitVec n :=
  if b then w ||| (1#n <<< i) else w &&& ~~~(1#n <<< i)

/-- A bit as a number. -/
def bitNat (b : Bool) : Nat := if b then 1 else 0

/-- Sign-extend a byte to a word (`sext_16`, R11). -/
def sext16 (b : Byte) : Word := b.signExtend 16

/-- Zero-extend a byte to a word (`zext_16`, R11). -/
def zext16 (b : Byte) : Word := b.setWidth 16

/-- The low byte of a word. -/
def loByte (w : Word) : Byte := w.extractLsb' 0 8

/-- The high byte of a word. -/
def hiByte (w : Word) : Byte := w.extractLsb' 8 8

/-- A word from its bytes. -/
def mkWord (hi lo : Byte) : Word := hi ++ lo

/-! ## Registers -/

/-- A word register (R30). -/
def State.reg16 (s : State) : Reg16 → Word
  | .ax => s.ax
  | .cx => s.cx
  | .dx => s.dx
  | .bx => s.bx
  | .sp => s.sp
  | .bp => s.bp
  | .si => s.si
  | .di => s.di

/-- Write a word register (R30). -/
def State.setReg16 (s : State) (r : Reg16) (v : Word) : State :=
  match r with
  | .ax => { s with ax := v }
  | .cx => { s with cx := v }
  | .dx => { s with dx := v }
  | .bx => { s with bx := v }
  | .sp => { s with sp := v }
  | .bp => { s with bp := v }
  | .si => { s with si := v }
  | .di => { s with di := v }

/-- A byte register: half of AX, CX, DX or BX (R31). -/
def State.reg8 (s : State) : Reg8 → Byte
  | .al => loByte s.ax
  | .cl => loByte s.cx
  | .dl => loByte s.dx
  | .bl => loByte s.bx
  | .ah => hiByte s.ax
  | .ch => hiByte s.cx
  | .dh => hiByte s.dx
  | .bh => hiByte s.bx

/-- Write a byte register; the other half keeps its value (R31). -/
def State.setReg8 (s : State) (r : Reg8) (v : Byte) : State :=
  match r with
  | .al => { s with ax := mkWord (hiByte s.ax) v }
  | .cl => { s with cx := mkWord (hiByte s.cx) v }
  | .dl => { s with dx := mkWord (hiByte s.dx) v }
  | .bl => { s with bx := mkWord (hiByte s.bx) v }
  | .ah => { s with ax := mkWord v (loByte s.ax) }
  | .ch => { s with cx := mkWord v (loByte s.cx) }
  | .dh => { s with dx := mkWord v (loByte s.dx) }
  | .bh => { s with bx := mkWord v (loByte s.bx) }

/-- A segment register (R34). -/
def State.seg (s : State) : Sreg → SegReg
  | .es => s.es
  | .cs => s.cs
  | .ss => s.ss
  | .ds => s.ds

/-- Write a segment register, hidden part included (R36). -/
def State.setSeg (s : State) (r : Sreg) (v : SegReg) : State :=
  match r with
  | .es => { s with es := v }
  | .cs => { s with cs := v }
  | .ss => { s with ss := v }
  | .ds => { s with ds := v }

/-- Write a word register. -/
def setReg16 (r : Reg16) (v : Word) : Exec Unit := update (·.setReg16 r v)

/-- Write a byte register. -/
def setReg8 (r : Reg8) (v : Byte) : Exec Unit := update (·.setReg8 r v)

/-! ## FLAGS and MSW -/

/-- The defined one-bit fields of FLAGS (R43). -/
inductive Flag where
  | cf | pf | af | zf | sf | tf | ie | df | of | nt
  deriving DecidableEq, Repr

/-- The bit number of a flag (R43). -/
def Flag.pos : Flag → Nat
  | .cf => 0 | .pf => 2 | .af => 4 | .zf => 6 | .sf => 7 | .tf => 8 | .ie => 9 | .df => 10 | .of => 11 | .nt => 14

/-- A flag of a FLAGS image. -/
def flagOf (w : Word) (f : Flag) : Bool := w.getLsbD f.pos

/-- A FLAGS image with one flag changed. -/
def putFlag (w : Word) (f : Flag) (b : Bool) : Word := putBit w f.pos b

/-- A flag. -/
def State.flag (s : State) (f : Flag) : Bool := flagOf s.flags f

/-- Change one flag. -/
def State.setFlag (s : State) (f : Flag) (b : Bool) : State := { s with flags := putFlag s.flags f b }

/-- Change one flag. -/
def setFlag (f : Flag) (b : Bool) : Exec Unit := update (·.setFlag f b)

/-- The defined bits of FLAGS; bits 1, 3, 5 and 15 are reserved (R45). -/
def definedFlags : Word := 0x7FD5

/-- FLAGS with the defined bits of an image: the reserved bits keep the reset image 0002H, writes to them are
ignored (R45, U2). -/
def flagsFromImage (image : Word) : Word := (image &&& definedFlags) ||| 0x0002

/-- IOPL, FLAGS bits 13:12 (R43). -/
def ioplOf (flags : Word) : Nat := (flags.extractLsb' 12 2).toNat

/-- IOPL. -/
def State.iopl (s : State) : Nat := ioplOf s.flags

/-- MSW.MP (R47). -/
def State.mp (s : State) : Bool := s.msw.getLsbD 1

/-- MSW.EM (R47). -/
def State.em (s : State) : Bool := s.msw.getLsbD 2

/-- MSW.TS (R47). -/
def State.ts (s : State) : Bool := s.msw.getLsbD 3

/-- The RPL field of a selector (21_protection.md R150). -/
def rpl (sel : Word) : Nat := (sel.extractLsb' 0 2).toNat

/-- CPL: CS.sel[1:0] in Protected Mode (R162); Real Address Mode is equivalent to privilege level 0 (R44). -/
def State.cpl (s : State) : Nat := if s.pe then rpl s.cs.sel else 0

/-! ## Control transfer within CS -/

/-- `IP <- off`, emptying the prefetch queue (20_memory.md R130). -/
def State.jumpTo (s : State) (off : Word) : State := { s with ip := off, ipCarry := false, stale := [] }

/-! ## Free values (log 9) -/

/-- Advance the counter of free values. -/
def State.drawn (s : State) : State := { s with free := s.free + 1 }

/-- An open bit. -/
def drawBit : Exec Bool := fun s => .ok (Config.freeBit s.free) s.drawn

/-- An open byte. -/
def drawByte : Exec Byte := fun s => .ok (Config.freeByte s.free) s.drawn

/-- An open word. -/
def drawWord : Exec Word := fun s => .ok (Config.freeWord s.free) s.drawn

/-- An open 80-bit value. -/
def drawTemp : Exec Temp := fun s => .ok (Config.freeTemp s.free) s.drawn

/-- One of `n + 1` choices. -/
def drawNat (n : Nat) : Exec Nat := fun s => .ok (Config.freeNat s.free % (n + 1)) s.drawn

/-- A flag that the instruction leaves undefined: an open bit (93_implementation_defined.md Part 2). -/
def undefineFlag (f : Flag) : Exec Unit := do
  let b ← drawBit
  setFlag f b

/-- The FLAGS image that a read of the register gives: the reserved bits are open (R45, U2). -/
def State.flagsImage (s : State) : Word :=
  (s.flags &&& definedFlags) ||| (Config.freeWord s.free &&& ~~~definedFlags)

/-- Read FLAGS. -/
def readFlags : Exec Word := fun s => .ok s.flagsImage s.drawn

end Sys2Proof.Machine
end

