-- ==== Sys2Proof/Machine/Access.lean ====
section
/-! DEFINITION. Checked references through a segment register, the stack, and the I/O space (spec/20_memory.md). -/

namespace Sys2Proof.Machine

/-! ## Segments -/

/-- Executable: a code segment (21_protection.md R155, bit 3). -/
def SegReg.isCode (r : SegReg) : Bool := r.access.getLsbD 3

/-- An expand-down data segment (R155, bits 3 and 2). -/
def SegReg.expandDown (r : SegReg) : Bool := !r.isCode && r.access.getLsbD 2

/-- Bit 1 of the access byte: writable data, readable code (R155). -/
def SegReg.rw (r : SegReg) : Bool := r.access.getLsbD 1

/-- The physical address of an offset: base plus offset modulo 2^24 (R103, R105). -/
def SegReg.addr (r : SegReg) (off : Nat) : Addr := r.base + BitVec.ofNat 24 off

/-- The limit test of an `n`-byte operand at offset `off`, without wrap-around (R112, R113; Real Address Mode R116). -/
def SegReg.inLimit (r : SegReg) (pe : Bool) (off n : Nat) : Bool :=
  if pe then
    if r.expandDown then decide (r.limit.toNat < off) && decide (off + n ≤ 0x10000)
    else decide (off + n ≤ r.limit.toNat + 1)
  else decide (off + n ≤ 0x10000)

/-- The exception of a failed reference: interrupt 13 in Real Address Mode; #SS(0) through SS, else #GP(0) (R115, R116). -/
def limitExn (pe : Bool) (S : Sreg) : Exn :=
  if pe then (if S = .ss then .ss 0 else .gp 0) else ⟨13, none⟩

/-- Steps (1) and (2) of R119: the segment register is valid and the operand lies within the limit. -/
def State.checkLimit (s : State) (S : Sreg) (off n : Nat) : Except Exn Unit :=
  if s.pe && !(s.seg S).valid then .error (.gp 0)
  else if (s.seg S).inLimit s.pe off n then .ok ()
  else .error (limitExn s.pe S)

/-- The tests of a read (R119 steps 1 to 3). -/
def State.checkRead (s : State) (S : Sreg) (off n : Nat) : Except Exn Unit :=
  match s.checkLimit S off n with
  | .error x => .error x
  | .ok () => if s.pe && (s.seg S).isCode && !(s.seg S).rw then .error (.gp 0) else .ok ()

/-- The tests of a write (R119 steps 1, 2 and 3'). -/
def State.checkWrite (s : State) (S : Sreg) (off n : Nat) : Except Exn Unit :=
  match s.checkLimit S off n with
  | .error x => .error x
  | .ok () => if s.pe && ((s.seg S).isCode || !(s.seg S).rw) then .error (.gp 0) else .ok ()

/-! ## Memory references (R119); offsets are numbers so that EA + 2 is not reduced (D1) -/

/-- `MemRead(S, off, 1)`. -/
def State.load8 (s : State) (S : Sreg) (off : Nat) : Except Exn Byte :=
  match s.checkRead S off 1 with
  | .error x => .error x
  | .ok () => .ok (s.readByte ((s.seg S).addr off))

/-- `MemRead(S, off, 2)`. -/
def State.load16 (s : State) (S : Sreg) (off : Nat) : Except Exn Word :=
  match s.checkRead S off 2 with
  | .error x => .error x
  | .ok () => .ok (s.readWord ((s.seg S).addr off))

/-- `MemWrite(S, off, 1, v)`. -/
def State.store8 (s : State) (S : Sreg) (off : Nat) (v : Byte) : Except Exn State :=
  match s.checkWrite S off 1 with
  | .error x => .error x
  | .ok () => .ok (s.writeByte ((s.seg S).addr off) v)

/-- `MemWrite(S, off, 2, v)`. -/
def State.store16 (s : State) (S : Sreg) (off : Nat) (v : Word) : Except Exn State :=
  match s.checkWrite S off 2 with
  | .error x => .error x
  | .ok () => .ok (s.writeWord ((s.seg S).addr off) v)

/-- Read a byte. -/
def load8 (S : Sreg) (off : Nat) : Exec Byte := fun s =>
  match s.load8 S off with
  | .error x => .error (.exn x false) s
  | .ok v => .ok v s

/-- Read a word. -/
def load16 (S : Sreg) (off : Nat) : Exec Word := fun s =>
  match s.load16 S off with
  | .error x => .error (.exn x false) s
  | .ok v => .ok v s

/-- Store a byte. -/
def store8 (S : Sreg) (off : Nat) (v : Byte) : Exec Unit := fun s =>
  match s.store8 S off v with
  | .error x => .error (.exn x false) s
  | .ok s' => .ok () s'

/-- Store a word. -/
def store16 (S : Sreg) (off : Nat) (v : Word) : Exec Unit := fun s =>
  match s.store16 S off v with
  | .error x => .error (.exn x false) s
  | .ok s' => .ok () s'

/-- Make the tests of a read without reading. -/
def testRead (S : Sreg) (off n : Nat) : Exec Unit := fun s =>
  match s.checkRead S off n with
  | .error x => .error (.exn x false) s
  | .ok () => .ok () s

/-- Make the tests of a write without storing. -/
def testWrite (S : Sreg) (off n : Nat) : Exec Unit := fun s =>
  match s.checkWrite S off n with
  | .error x => .error (.exn x false) s
  | .ok () => .ok () s

/-! ## The stack (R117; 40_data_movement.md R330; 46_protected_transfers.md R592) -/

/-- Whether `k` successive pushes from `sp` stay within a stack segment: each word at `sp - 2`, `sp - 4`, ... modulo 2^16
passes the limit test (R592). -/
def SegReg.pushRoom (r : SegReg) (pe : Bool) (sp : Word) : Nat → Bool
  | 0 => true
  | k + 1 => r.inLimit pe (sp - 2).toNat 2 && r.pushRoom pe (sp - 2) k

/-- Test the room for `k` words. Protected Mode: #SS(0). Real Address Mode: a word at offset FFFFH means shutdown, because
the interrupt 13 that would report it needs the same stack (R117, R950). -/
def pushRoom (k : Nat) : Exec Unit := fun s =>
  if s.pe && !s.ss.valid then .error (.exn (.gp 0) false) s
  else if s.ss.pushRoom s.pe s.sp k then .ok () s
  else if s.pe then .error (.exn (.ss 0) false) s
  else .error .shutdown s

/-- Push a word that has room: SP <- SP - 2, then the word at SS:SP (R330). -/
def State.pushWord (s : State) (v : Word) : State :=
  ({ s with sp := s.sp - 2 } : State).writeWord (s.ss.addr (s.sp - 2).toNat) v

/-- `Push(v)` with its room test. -/
def push (v : Word) : Exec Unit := do
  pushRoom 1
  update (·.pushWord v)

/-- `Pop()`: the word at SS:SP, then SP <- SP + 2 (R332). -/
def pop : Exec Word := do
  let sp ← look (·.sp)
  let v ← load16 .ss sp.toNat
  update fun s => { s with sp := sp + 2 }
  pure v

/-- `PopRoom(n)`: the `n` bytes at SS:SP lie within the limit without wrapping, else #SS(0) (R592). -/
def popRoom (n : Nat) : Exec Unit := fun s =>
  match s.checkRead .ss s.sp.toNat n with
  | .error x => .error (.exn x false) s
  | .ok () => .ok () s

/-- The word `k` bytes above SS:SP, offsets not reduced. -/
def stackWord (k : Nat) : Exec Word := do
  let sp ← look (·.sp)
  load16 .ss (sp.toNat + k)

/-! ## The I/O space (R125, R126) -/

/-- Ports 00F8H to 00FFH belong to the processor extension (R126). -/
def npxPort (port : Word) : Bool := port.extractLsb' 3 13 == 0x1F

/-- Refuse a program's own access to the processor extension's ports when it is fitted (U4). -/
def checkPort (port : Word) : Exec Unit := fun s =>
  if s.npxPresent && npxPort port then .error (.refused .npxPort) s else .ok () s

/-- `IoRead(port, 1)`: the platform answers, an open byte (R125, log 5). -/
def portIn (port : Word) : Exec Byte := do
  checkPort port
  let v ← drawByte
  update fun s => { s with ioTrace := .input port v :: s.ioTrace }
  pure v

/-- `IoWrite(port, 1, v)`, recorded for the platform (R125, log 5). -/
def portOut (port : Word) (v : Byte) : Exec Unit := do
  checkPort port
  update fun s => { s with ioTrace := .output port v :: s.ioTrace }

/-- `IoRead(port, 2)`: low byte from `port`, high byte from `port + 1` modulo 2^16 (D8). -/
def portInWord (port : Word) : Exec Word := do
  let lo ← portIn port
  let hi ← portIn (port + 1)
  pure (mkWord hi lo)

/-- `IoWrite(port, 2, v)`. -/
def portOutWord (port : Word) (v : Word) : Exec Unit := do
  portOut port (loByte v)
  portOut (port + 1) (hiByte v)

/-- The test of IN, OUT, INS, OUTS, CLI, STI and LOCK: CPL <= IOPL in Protected Mode, else #GP(0) (R165). -/
def requireIopl : Exec Unit := do
  let s ← look id
  require (!s.pe || decide (s.cpl ≤ s.iopl)) (.gp 0)

/-- The test of the privileged instructions: CPL = 0 in Protected Mode, else #GP(0) (R165). -/
def requireCpl0 : Exec Unit := do
  let s ← look id
  require (decide (s.cpl = 0)) (.gp 0)

end Sys2Proof.Machine
end

