-- ==== Sys2Proof/Machine/Descriptor.lean ====
section
/-! DEFINITION. Selectors, descriptors and the loading of segment registers (spec/21_protection.md R150 to R178). -/

namespace Sys2Proof.Machine

/-! ## Descriptors (R154, R155, R158) -/

/-- The bytes 0 to 5 of a descriptor or gate and its physical address; bytes 6 and 7 are ignored (U7). -/
structure Desc where
  addr : Addr
  w0 : Word
  w1 : Word
  b4 : Byte
  access : Byte
  deriving DecidableEq, Repr

/-- LIMIT of a segment descriptor (R154). -/
def Desc.limit (d : Desc) : Word := d.w0

/-- BASE of a segment descriptor (R154). -/
def Desc.base (d : Desc) : Addr := d.b4 ++ d.w1

/-- Destination offset of a gate (R158). -/
def Desc.offset (d : Desc) : Word := d.w0

/-- Destination selector of a gate (R158). -/
def Desc.selector (d : Desc) : Word := d.w1

/-- Word count of a call gate, masked to 5 bits (R158). -/
def Desc.count (d : Desc) : Nat := (d.b4.extractLsb' 0 5).toNat

/-- Bits 4:0 of an access byte (R156). -/
def descType (access : Byte) : Nat := (access.extractLsb' 0 5).toNat

/-- DPL of an access byte (R155). -/
def descDpl (access : Byte) : Nat := (access.extractLsb' 5 2).toNat

/-- Bits 4:0 of the access byte (R156). -/
def Desc.type (d : Desc) : Nat := descType d.access

/-- DPL (R155). -/
def Desc.dpl (d : Desc) : Nat := descDpl d.access

/-- P (R155). -/
def Desc.present (d : Desc) : Bool := d.access.getLsbD 7

/-- A code segment: S = 1, E = 1 (R155). -/
def Desc.isCode (d : Desc) : Bool := d.access.getLsbD 4 && d.access.getLsbD 3

/-- A data segment: S = 1, E = 0 (R155). -/
def Desc.isData (d : Desc) : Bool := d.access.getLsbD 4 && !d.access.getLsbD 3

/-- A conforming code segment (R155, R166). -/
def Desc.conforming (d : Desc) : Bool := d.isCode && d.access.getLsbD 2

/-- A writable data segment. -/
def Desc.writable (d : Desc) : Bool := d.isData && d.access.getLsbD 1

/-- A data segment or a readable code segment (R171). -/
def Desc.readable (d : Desc) : Bool := d.isData || (d.isCode && d.access.getLsbD 1)

/-! ## Selectors and tables (R150 to R152, R168, R169) -/

/-- The four null selectors 0000H to 0003H (R152). -/
def isNull (sel : Word) : Bool := sel.extractLsb' 2 14 == 0

/-- TI: the selector names the LDT (R150). -/
def isLocal (sel : Word) : Bool := sel.getLsbD 2

/-- INDEX times 8: the byte offset of the descriptor in its table (R150, R151). -/
def tableOffset (sel : Word) : Nat := (sel &&& 0xFFF8).toNat

/-- The address of the descriptor a selector names; none outside the table limit or with TI = 1 and no LDT (R151, R168). -/
def State.descAddr (s : State) (sel : Word) : Option Addr :=
  let k := tableOffset sel
  if isLocal sel then
    if s.ldtr.valid && decide (k + 7 ≤ s.ldtr.limit.toNat) then some (s.ldtr.base + BitVec.ofNat 24 k) else none
  else if k + 7 ≤ s.gdtr.limit.toNat then some (s.gdtr.base + BitVec.ofNat 24 k)
  else none

/-- Read the descriptor at a physical address. -/
def State.descAt (s : State) (a : Addr) : Desc :=
  { addr := a, w0 := s.readWord a, w1 := s.readWord (a + 2), b4 := s.readByte (a + 4), access := s.readByte (a + 5) }

/-- `FetchDescriptor(sel)` (R169). -/
def State.descriptor (s : State) (sel : Word) : Option Desc := (s.descAddr sel).map s.descAt

/-- `D(sel)`, or the exception `x` outside the table limits (R591). -/
def fetchDesc (sel : Word) (x : Exn) : Exec Desc := do
  match (← look (·.descriptor sel)) with
  | some d => pure d
  | none => raise x

/-- The segment-register contents that a descriptor gives, its access byte with the Accessed bit set (R154, R171 step 5, R176;
95_test_vectors.md 2.9 and P3). -/
def Desc.load (d : Desc) (sel : Word) : SegReg :=
  { sel := sel, base := d.base, limit := d.limit, access := d.access ||| 1, valid := true }

/-- Set the Accessed bit of the descriptor in memory (R176). -/
def State.setAccessed (s : State) (d : Desc) : State := s.writeByte (d.addr + 5) (d.access ||| 1)

/-- Load a segment register and set the Accessed bit (`LoadSS`, R591). -/
def loadSeg (r : Sreg) (sel : Word) (d : Desc) : Exec Unit :=
  update fun s => (s.setSeg r (d.load sel)).setAccessed d

/-- A selector with its RPL field replaced by `p`. -/
def withRpl (sel : Word) (p : Nat) : Word := (sel &&& 0xFFFC) ||| BitVec.ofNat 16 p

/-- `LoadCS(sel, d, p); IP <- off` (R591). -/
def loadCs (sel : Word) (d : Desc) (p : Nat) (off : Word) : Exec Unit := do
  loadSeg .cs (withRpl sel p) d
  update (·.jumpTo off)

/-- `CodeLimit(d, off)` (R591). -/
def codeLimit (d : Desc) (off : Word) : Exec Unit := require (decide (off.toNat ≤ d.limit.toNat)) (.gp 0)

/-- The Real Address Mode contents of a segment register: base = selector * 16, limit FFFFH (R38). -/
def SegReg.loadReal (r : SegReg) (sel : Word) : SegReg :=
  { r with sel := sel, base := sel.setWidth 24 <<< 4, limit := 0xFFFF, valid := true }

/-- Load a segment register in Real Address Mode (R38, R170). -/
def State.loadSegReal (s : State) (r : Sreg) (sel : Word) : State := s.setSeg r ((s.seg r).loadReal sel)

/-- `CS:IP <- sel:off` in Real Address Mode (44_control_transfer.md R495). -/
def farReal (sel off : Word) : Exec Unit := update fun s => (s.loadSegReal .cs sel).jumpTo off

/-- The DPL test of a load of DS or ES, and of an outer return: none for a conforming code segment (R171 step 3). -/
def dataPrivilege (d : Desc) (level : Nat) (sel : Word) : Bool :=
  d.conforming || (decide (level ≤ d.dpl) && decide (rpl sel ≤ d.dpl))

/-- Load DS or ES in Protected Mode (R171, R173). -/
def loadDataSeg (r : Sreg) (sel : Word) : Exec Unit := do
  if isNull sel then update fun s => s.setSeg r { s.seg r with sel := sel, valid := false }
  else
    let d ← fetchDesc sel (.gp sel)
    require d.readable (.gp sel)
    let cpl ← look (·.cpl)
    require (dataPrivilege d cpl sel) (.gp sel)
    require d.present (.np sel)
    loadSeg r sel d

/-- Load SS in Protected Mode (R172). -/
def loadStackSeg (sel : Word) : Exec Unit := do
  require (!isNull sel) (.gp 0)
  let d ← fetchDesc sel (.gp sel)
  let cpl ← look (·.cpl)
  require (decide (rpl sel = cpl)) (.gp sel)
  require d.writable (.gp sel)
  require (decide (d.dpl = cpl)) (.gp sel)
  require d.present (.ss sel)
  loadSeg .ss sel d

/-- Load DS, ES or SS (R170). -/
def loadSreg (r : Sreg) (sel : Word) : Exec Unit := do
  let pe ← look (·.pe)
  if pe then
    if r = .ss then loadStackSeg sel else loadDataSeg r sel
  else update (·.loadSegReal r sel)

/-- Whether DS or ES stays loaded when control returns to level `p` (46_protected_transfers.md R618). -/
def State.staysLoaded (s : State) (r : SegReg) (p : Nat) : Bool :=
  match s.descriptor r.sel with
  | none => false
  | some d => d.readable && dataPrivilege d p r.sel

/-- `InvalidateIfInner(R)` for the new level `p` (R618). -/
def invalidateIfInner (r : Sreg) (p : Nat) : Exec Unit := update fun s =>
  if isNull (s.seg r).sel || s.staysLoaded (s.seg r) p then s
  else s.setSeg r { s.seg r with sel := 0, access := 0, valid := false }

/-! ## Room on a stack segment (46_protected_transfers.md R592) -/

/-- `PushRoom(S, sp, 2 k)` on any stack segment cache, else #SS(0). -/
def roomOn (r : SegReg) (sp : Word) (k : Nat) : Exec Unit := require (r.pushRoom true sp k) (.ss 0)

/-- Push words that have room, the first one first. -/
def pushAll : List Word → Exec Unit
  | [] => pure ()
  | v :: vs => do
    update (·.pushWord v)
    pushAll vs

end Sys2Proof.Machine
end

