-- ==== Sys2Proof/Machine/Task.lean ====
section
/-! DEFINITION. The task state segment, the inner-level stacks it holds, and the task switch
(spec/46_protected_transfers.md R595, R596, R640 to R648). -/

namespace Sys2Proof.Machine

/-- What asks for a task switch: JMP, CALL or an interrupt (nesting), IRET (R641). -/
inductive SwitchSource where
  | jmp
  | call
  | iret
  deriving DecidableEq, Repr

/-- Raise `x`, in the context of the incoming task, unless the condition holds (R643). -/
def requireKept (c : Bool) (x : Exn) : Exec Unit := if c then pure () else raiseKept x

/-- `D(sel)`, or the exception `x` in the context of the incoming task. -/
def fetchDescKept (sel : Word) (x : Exn) : Exec Desc := do
  match (← look (·.descriptor sel)) with
  | some d => pure d
  | none => raiseKept x

/-- The word of the current task state segment at offset `o` (R640). -/
def State.tssWord (s : State) (o : Nat) : Word := s.readWord (s.tr.base + BitVec.ofNat 24 o)

/-- `TssWord(o)` with its limit test: #TS(TR.sel) beyond TR.limit (R595, D29). -/
def tssWord (o : Nat) : Exec Word := do
  let s ← look id
  require (decide (o + 1 ≤ s.tr.limit.toNat)) (.ts s.tr.sel)
  pure (s.tssWord o)

/-! ## The stack of an inner level (R595, R596) -/

/-- The SS:SP pair of level `n` in the current task state segment: SP, then SS (R595). -/
def innerStack (n : Nat) : Exec (Word × Word) := do
  let sp ← tssWord (2 + 4 * n)
  let ss ← tssWord (4 + 4 * n)
  pure (sp, ss)

/-- The validated descriptor of an inner-level stack selector; `x` is the exception for a null selector (R596). -/
def innerStackDesc (ss : Word) (n : Nat) (x : Exn) : Exec Desc := do
  require (!isNull ss) x
  let d ← fetchDesc ss (.ts ss)
  require (decide (rpl ss = n)) (.ts ss)
  require (decide (d.dpl = n)) (.ts ss)
  require d.writable (.ts ss)
  require d.present (.ss ss)
  pure d

/-! ## The task switch (R641 to R648) -/

/-- The address of the access byte of a GDT descriptor; the TI bit of the selector is not looked at (log 62). -/
def State.gdtAccess (s : State) (sel : Word) : Addr := s.gdtr.base + BitVec.ofNat 24 (tableOffset sel) + 5

/-- Set the busy bit of a TSS descriptor (R642), wherever it stands: a far JMP or CALL may name one in the LDT, which the spec
leaves open (R594, N24; log 62). -/
def State.markBusy (s : State) (t : Desc) : State := s.writeByte (t.addr + 5) (t.access ||| 2)

/-- Clear the busy bit of the current task's TSS descriptor (R642), looked up in the GDT whatever the TI bit of TR (log 62). -/
def State.markAvailable (s : State) : State :=
  s.writeByte (s.gdtAccess s.tr.sel) (s.readByte (s.gdtAccess s.tr.sel) &&& 0xFD)

/-- Store words into the current task state segment, in order. -/
def State.tssWrite (s : State) : List (Nat × Word) → State
  | [] => s
  | (o, v) :: t => State.tssWrite (s.writeWord (s.tr.base + BitVec.ofNat 24 o) v) t

/-- Save the outgoing task: the dynamic words 14 to 40 (R642, R640). -/
def State.saveTask (s : State) (ip flags : Word) : State :=
  s.tssWrite
    [(14, ip), (16, flags), (18, s.ax), (20, s.cx), (22, s.dx), (24, s.bx), (26, s.sp), (28, s.bp), (30, s.si),
     (32, s.di), (34, s.es.sel), (36, s.cs.sel), (38, s.ss.sel), (40, s.ds.sel)]

/-- A segment register that holds a selector whose descriptor is not loaded (R644). -/
def SegReg.unloaded (r : SegReg) (sel : Word) : SegReg := { r with sel := sel, valid := false }

/-- The registers of the incoming task, from the TSS that TR names (R644), its flags and MSW.TS (R646). -/
def State.loadTask (s : State) (src : SwitchSource) : State :=
  let image := flagsFromImage (s.tssWord 16)
  { s with
    ip := s.tssWord 14
    ipCarry := false
    stale := []
    flags := match src with
      | .jmp => putFlag image .nt false
      | .call => putFlag image .nt true
      | .iret => image
    ax := s.tssWord 18
    cx := s.tssWord 20
    dx := s.tssWord 22
    bx := s.tssWord 24
    sp := s.tssWord 26
    bp := s.tssWord 28
    si := s.tssWord 30
    di := s.tssWord 32
    es := s.es.unloaded (s.tssWord 34)
    cs := s.cs.unloaded (s.tssWord 36)
    ss := s.ss.unloaded (s.tssWord 38)
    ds := s.ds.unloaded (s.tssWord 40)
    ldtr := { s.ldtr with sel := s.tssWord 42, valid := false }
    msw := s.msw ||| 8 }

/-- The LDT of the incoming task; a null selector leaves LDTR invalid (R647, D32). -/
def loadTaskLdt : Exec Unit := do
  let l ← look (·.ldtr.sel)
  if isNull l then pure ()
  else
    requireKept (!isLocal l) (.ts l)
    let d ← fetchDescKept l (.ts l)
    requireKept (d.type == 2) (.ts l)
    requireKept d.present (.ts l)
    update fun s => { s with ldtr := { sel := l, base := d.base, limit := d.limit, valid := true } }

/-- SS of the incoming task at level `p` (R647). -/
def loadTaskSs (p : Nat) : Exec Unit := do
  let ss ← look (·.ss.sel)
  requireKept (!isNull ss) (.ts ss)
  let d ← fetchDescKept ss (.ts ss)
  requireKept (decide (rpl ss = p)) (.ts ss)
  requireKept (decide (d.dpl = p)) (.ts ss)
  requireKept d.writable (.ts ss)
  requireKept d.present (.ss ss)
  loadSeg .ss ss d

/-- CS of the incoming task (R647). -/
def loadTaskCs : Exec Unit := do
  let cs ← look (·.cs.sel)
  let p := rpl cs
  requireKept (!isNull cs) (.ts cs)
  let d ← fetchDescKept cs (.ts cs)
  requireKept d.isCode (.ts cs)
  requireKept (if d.conforming then decide (d.dpl ≤ p) else decide (d.dpl = p)) (.ts cs)
  requireKept d.present (.np cs)
  loadSeg .cs cs d

/-- DS or ES of the incoming task at level `p` (R647). -/
def loadTaskData (r : Sreg) (p : Nat) : Exec Unit := do
  let sel ← look fun s => (s.seg r).sel
  if isNull sel then pure ()
  else
    let d ← fetchDescKept sel (.ts sel)
    requireKept d.readable (.ts sel)
    requireKept (dataPrivilege d p sel) (.ts sel)
    requireKept d.present (.np sel)
    loadSeg r sel d

/-- `SwitchTasks(ts, t, nesting, source)`; `ip` is the IP saved for the outgoing task (R641 to R647). -/
def switchTasks (ts : Word) (t : Desc) (src : SwitchSource) (ip : Word) : Exec Unit := do
  let s ← look id
  require (decide (43 ≤ s.tr.limit.toNat)) (.ts ts)
  require (decide (43 ≤ t.limit.toNat)) (.ts ts)
  if src = .iret then pure () else update (·.markBusy t)
  let image ← readFlags
  update (·.saveTask ip (if src = .iret then putFlag image .nt false else image))
  if src = .call then update fun s => s.writeWord t.base s.tr.sel else update (·.markAvailable)
  update fun s => { s with tr := { sel := ts, base := t.base, limit := t.limit, valid := true } }
  update (·.loadTask src)
  loadTaskLdt
  let p ← look fun s => rpl s.cs.sel
  loadTaskSs p
  loadTaskCs
  loadTaskData .ds p
  loadTaskData .es p

/-- The last test of a transfer that switched tasks: IP within the new code segment, else #GP(0) in the new task (R603). -/
def checkTaskIp : Exec Unit := do
  let s ← look id
  requireKept (decide (s.ip.toNat ≤ s.cs.limit.toNat)) (.gp 0)

/-- The tests on the TSS selector taken from a task gate (R603, R610, R628): the descriptor of an available TSS. No null test is
made, as R603 says: a null selector is looked up like any other (log 67). -/
def gateTss (ts : Word) : Exec Desc := do
  require (!isLocal ts) (.gp ts)
  let t ← fetchDesc ts (.gp ts)
  require (t.type == 1) (.gp ts)
  require t.present (.np ts)
  pure t

end Sys2Proof.Machine
end

