-- ==== Sys2Proof/Machine/Ops.lean ====
section
/-! DEFINITION. Taking an exception or interrupt, returning from one, and how an instruction ends
(spec/60_exceptions.md R900 to R951, spec/46_protected_transfers.md R625 to R633, spec/44_control_transfer.md R530). -/

namespace Sys2Proof.Machine

/-- What an instruction answers. -/
abbrev Result := Host.Outcome State Fault Refusal

/-! ## Events (R900) -/

/-- The kinds of event that differ in what a failed delivery becomes (R900, R913). -/
inductive EventKind where
  | fault
  | doubleFault
  | software
  | external
  deriving DecidableEq, Repr

/-- An event to deliver: its vector, its error code with the EXT bit, its kind, and the return IP it saves (R905, R911). -/
structure Event where
  vec : Byte
  code : Option Word
  kind : EventKind
  ret : Word
  deriving DecidableEq, Repr

/-- EXT: external events, #NM, #MF (and #MP, an external event here); no other exception, no software interrupt (R912). -/
def Event.ext (e : Event) : Bool :=
  match e.kind with
  | .external => true
  | .fault => e.vec == 7 || e.vec == 16
  | _ => false

/-- An exception of the instruction at `ret`. -/
def Exn.event (x : Exn) (ret : Word) : Event := { vec := x.vec, code := x.code, kind := .fault, ret := ret }

/-- #DF(0) (R923). -/
def Event.doubleFault (ret : Word) : Event := { vec := 8, code := some 0, kind := .doubleFault, ret := ret }

/-- The code with EXT set when an external event was being delivered (R912). -/
def Exn.withExt (x : Exn) (ext : Bool) : Exn := if ext then { x with code := x.code.map (· ||| 1) } else x

/-- The return address when the event's delivery itself fails: the first byte of an INT, else what the event was saving
(R907, R913). -/
def Event.failedRet (e : Event) (s : State) : Word := if e.kind = .software then s.istart else e.ret

/-- Enter shutdown with CS:IP at the address the failed delivery was saving (R950, D63). -/
def State.shutDown (s : State) (ret : Word) : State := { s with run := .shutdown, ip := ret, ipCarry := false }

/-! ## Real Address Mode (R906) -/

/-- The four-byte table entry of a vector lies within the interrupt table (D61). -/
def State.inRealTable (s : State) (v : Byte) : Bool := decide (4 * v.toNat + 3 ≤ s.idtr.limit.toNat)

/-- SP is 1, 3 or 5: one of the three pushes would lie at offset FFFFH (R906). -/
def State.noRealRoom (s : State) : Bool := s.sp == 1 || s.sp == 3 || s.sp == 5

/-- Push FLAGS, CS and the return IP, clear IF and TF, load CS:IP from the table (R906). -/
def State.enterReal (s : State) (v : Byte) (ret : Word) (image : Word) : State :=
  let t := ((s.pushWord image).pushWord s.cs.sel).pushWord ret
  let t := { t with flags := putFlag (putFlag t.flags .ie false) .tf false }
  let entry := t.idtr.base + BitVec.ofNat 24 (4 * v.toNat)
  (t.loadSegReal .cs (t.readWord (entry + 2))).jumpTo (t.readWord entry)

/-- Deliver a vector that lies within the table. -/
def deliverInTable (v : Byte) (ret down : Word) (s : State) : State :=
  if s.noRealRoom then s.shutDown down
  else s.drawn.enterReal v ret s.flagsImage

/-- `DeliverReal` (R906): a vector outside the table gives interrupt 8, or shutdown for vectors 8 and 13. In shutdown CS:IP is
what the failed delivery was saving (R950, D63): that of vector 8 or 13 itself, else that of the interrupt 8 (R907). -/
def deliverReal (e : Event) (s : State) : State :=
  if s.inRealTable e.vec then deliverInTable e.vec e.ret (e.failedRet s) s
  else if e.vec = 8 ∨ e.vec = 13 then s.shutDown e.ret
  else if s.inRealTable 8 = false then s.shutDown (e.failedRet s)
  else deliverInTable 8 (e.failedRet s) (e.failedRet s) s

/-! ## Protected Mode (R910, 46_protected_transfers.md R625 to R628) -/

/-- The error code that names an IDT entry (R912). -/
def idtCode (v : Byte) : Word := BitVec.ofNat 16 (8 * v.toNat + 2)

/-- #GP naming an IDT entry (R625). -/
def gpIdt (v : Byte) : Exn := ⟨13, some (idtCode v)⟩

/-- #NP naming an IDT entry (R625). -/
def npIdt (v : Byte) : Exn := ⟨11, some (idtCode v)⟩

/-- The flags after the entry through an interrupt gate (type 6) or trap gate (R626, R914). -/
def gateFlags (flags : Word) (interruptGate : Bool) : Word :=
  let f := putFlag (putFlag flags .tf false) .nt false
  if interruptGate then putFlag f .ie false else f

/-- Clear TF and NT, and IF for an interrupt gate. -/
def enterGateFlags (g : Desc) : Exec Unit := update fun s => { s with flags := gateFlags s.flags (g.type == 6) }

/-- Interrupt to the same privilege level (R626). -/
def enterSameLevel (e : Event) (g c : Desc) : Exec Unit := do
  pushRoom (3 + e.code.toList.length)
  codeLimit c g.offset
  let s ← look id
  let image ← readFlags
  pushAll [image, s.cs.sel, e.ret]
  loadCs g.selector c s.cpl g.offset
  pushAll e.code.toList
  enterGateFlags g

/-- Interrupt to an inner level, on the stack of that level (R627). -/
def enterInnerLevel (e : Event) (g c : Desc) : Exec Unit := do
  let s ← look id
  let (sp, ss) ← innerStack c.dpl
  let d ← innerStackDesc ss c.dpl (.gp 0)
  roomOn (d.load ss) sp (5 + e.code.toList.length)
  codeLimit c g.offset
  let image ← readFlags
  loadSeg .ss ss d
  setReg16 .sp sp
  loadCs g.selector c c.dpl g.offset
  pushAll ([s.ss.sel, s.sp, image, s.cs.sel, e.ret] ++ e.code.toList)
  enterGateFlags g

/-- An interrupt gate or a trap gate (R626). -/
def enterGate (e : Event) (g : Desc) : Exec Unit := do
  let cs := g.selector
  require (!isNull cs) (.gp 0)
  let c ← fetchDesc cs (.gp cs)
  require c.isCode (.gp cs)
  require c.present (.np cs)
  let cpl ← look (·.cpl)
  if !c.conforming && decide (c.dpl < cpl) then enterInnerLevel e g c
  else if (if c.conforming then decide (c.dpl ≤ cpl) else decide (c.dpl = cpl)) then enterSameLevel e g c
  else raise (.gp cs)

/-- Push the error code on the new task's stack (R628). -/
def pushTaskCode (code : Word) : Exec Unit := do
  let s ← look id
  requireKept s.ss.valid (.gp 0)
  requireKept (s.ss.pushRoom true s.sp 1) (.ss 0)
  update (·.pushWord code)

/-- A task gate in the IDT (R628). -/
def enterTaskGate (e : Event) (g : Desc) : Exec Unit := do
  let t ← gateTss g.selector
  switchTasks g.selector t .call e.ret
  match e.code with
  | none => pure ()
  | some code => pushTaskCode code
  checkTaskIp

/-- Deliver an event through the IDT (R625). -/
def deliverProt (e : Event) : Exec Unit := do
  let s ← look id
  require (decide (8 * e.vec.toNat + 7 ≤ s.idtr.limit.toNat)) (gpIdt e.vec)
  let g := s.descAt (s.idtr.base + BitVec.ofNat 24 (8 * e.vec.toNat))
  require (g.type == 5 || g.type == 6 || g.type == 7) (gpIdt e.vec)
  require (e.kind != .software || decide (s.cpl ≤ g.dpl)) (gpIdt e.vec)
  require g.present (npIdt e.vec)
  if g.type == 5 then enterTaskGate e g else enterGate e g

/-- What is delivered when the delivery of `e` raises `x` with the return address `ret`: nothing (shutdown) for #DF, #DF for
an exception with EXT = 0, else `x` itself (R913). -/
def Event.afterFailure (e : Event) (x : Exn) (ret : Word) : Option Event :=
  match e.kind with
  | .doubleFault => none
  | .fault => if e.ext then some ((x.withExt true).event ret) else some (.doubleFault ret)
  | .software => some (x.event ret)
  | .external => some ((x.withExt true).event ret)

/-- Deliver an event, then what its failure becomes, then #DF, then shutdown (R913); the number bounds the deliveries. After a
failure past the commit point of a task switch the CS:IP to be saved is the new task's: the model's choice (log 65). -/
def deliverChain : Nat → Event → State → State
  | 0, e, s => s.shutDown e.ret
  | n + 1, e, s =>
    match deliverProt e s with
    | .ok _ t => t
    | .error (.exn x kept) t =>
      let ret := if kept then t.ip else e.failedRet s
      let base := if kept then t else { s with free := t.free }
      match e.afterFailure x ret with
      | none => base.shutDown ret
      | some e' => deliverChain n e' base
    | .error _ t => t.shutDown e.ret

/-- Deliver an event in the mode in force (R905). -/
def State.deliver (s : State) (e : Event) : State := if s.pe then deliverChain 4 e s else deliverReal e s

/-! ## Taking an exception (R903, R905) -/

/-- The state an exception finds: that of the start of the instruction, or, when it is raised after the commit point of a
task switch, the one at the raise (R903, R643). -/
def State.abandoned (start reached : State) (kept : Bool) : State :=
  if kept then reached else { start with free := reached.free, ip := start.istart, ipCarry := false }

/-- Take an exception of the instruction begun in `start`. -/
def takeException (x : Exn) (kept : Bool) (start reached : State) : State :=
  let s := start.abandoned reached kept
  s.deliver (x.event s.ip)

/-- A software interrupt: INT n, INT 3, INTO (R527). -/
def softInt (v : Byte) : Exec Unit :=
  update fun s => s.deliver { vec := v, code := none, kind := .software, ret := s.ip }

/-! ## How an instruction ends -/

/-- How a meaning completes. -/
inductive Ending where
  | done
  /-- A repeated string instruction or a wait goes on in the next step (43_string.md R480, R561). -/
  | again (i : Instr)
  /-- MOV SS and POP SS inhibit everything until after the next instruction (R936). -/
  | inhibitAll
  /-- STI that sets IF inhibits INTR until after the next instruction (R936). -/
  | inhibitIntr
  deriving DecidableEq, Repr

/-- The latches at the boundary after an instruction: no prefix, the one-instruction inhibits it sets, and the single-step
trap that falls due (R936, R940; dropped at an inhibited boundary, D59, and in shutdown). -/
def State.ended (t : State) (tf : Bool) (e : Ending) : State :=
  { t with
    pfx := .none
    inhibitAll := e == .inhibitAll
    inhibitIntr := e == .inhibitIntr
    stepPending := tf && e != .inhibitAll && t.run != .shutdown }

/-- The decoded instruction is held for the next step, which can recognise an event before it: IP is at its first byte,
prefixes included (R480, R911). -/
def State.begunAgain (t : State) (i : Instr) : State :=
  { t with
    ip := t.istart
    ipCarry := false
    pfx := .none
    held := some { instr := i, pfx := t.pfx, ip := t.ip, ipCarry := t.ipCarry } }

/-- What a stop of the instruction begun in `start` leads to; `reached` is the state at the stop. -/
def State.stopped (start reached : State) : Stop → Result
  | .exn x kept => .next ((takeException x kept start reached).ended start.tfAtStart .done)
  | .shutdown => .next (({ start with free := reached.free }.shutDown start.istart).ended start.tfAtStart .done)
  | .refused r => .refused r
  | .fault f => .fault f

/-- An instruction from its meaning. -/
def conclude (body : Exec Ending) (s : State) : Result :=
  match body s with
  | .ok (.again i) t => .next (t.begunAgain i)
  | .ok e t => .next (t.ended s.tfAtStart e)
  | .error e t => s.stopped t e

/-- An instruction that ends in the ordinary way. -/
def finish (body : Exec Unit) (s : State) : Result :=
  conclude (do body; pure .done) s

/-! ## Returning (44_control_transfer.md R530; 46_protected_transfers.md R615 to R618, R630 to R633) -/

/-- The return from a code segment: the tests on the selector `rs` for the new level `p` (R616, R617). -/
def returnCode (rs : Word) (p : Nat) : Exec Desc := do
  require (!isNull rs) (.gp 0)
  let c ← fetchDesc rs (.gp rs)
  require c.isCode (.gp rs)
  require (if c.conforming then decide (c.dpl ≤ p) else decide (c.dpl = p)) (.gp rs)
  require c.present (.np rs)
  pure c

/-- The tests on the stack selector `nss` of a return to the outer level `p` (R617). -/
def returnStack (nss : Word) (p : Nat) : Exec Desc := do
  require (!isNull nss) (.gp 0)
  let d ← fetchDesc nss (.gp nss)
  require (decide (rpl nss = p)) (.gp nss)
  require d.writable (.gp nss)
  require (decide (d.dpl = p)) (.gp nss)
  require d.present (.np nss)
  pure d

/-- FLAGS after POPF or IRET loads the image `f` with the given CPL and IOPL in Protected Mode (R630), or in Real Address
Mode, where IOPL and NT stay 0 (R44, R530, C75). -/
def State.popFlags (s : State) (f : Word) : Word :=
  if s.pe then
    let keepIf := if s.cpl ≤ s.iopl then (0 : Word) else 0x0200
    let keepIopl := if s.cpl = 0 then (0 : Word) else 0x3000
    let keep := keepIf ||| keepIopl
    flagsFromImage ((f &&& ~~~keep) ||| (s.flags &&& keep))
  else flagsFromImage ((f &&& 0x8FFF) ||| (s.flags &&& 0x7000))

/-- The word of the stack frame at SS:SP + `k`; in Real Address Mode an aligned stack wraps (R526, R530). -/
def frameWord (k : Nat) : Exec Word := do
  let sp ← look (·.sp)
  load16 .ss (sp + BitVec.ofNat 16 k).toNat

/-- IRET in Real Address Mode (R530). -/
def iretReal : Exec Unit := do
  let off ← frameWord 0
  let sel ← frameWord 2
  let f ← frameWord 4
  update fun s => { s with sp := s.sp + 6, flags := s.popFlags f }
  farReal sel off

/-- IRET to the same level (R632). -/
def iretSame (rs : Word) : Exec Unit := do
  popRoom 6
  let s ← look id
  let c ← returnCode rs s.cpl
  let off ← stackWord 0
  let f ← stackWord 4
  codeLimit c off
  update fun t => { t with flags := s.popFlags f, sp := s.sp + 6 }
  loadCs rs c s.cpl off

/-- The end of a return to the outer level `p`: the stack of that level, then DS and ES (R617, R633). -/
def returnOuter (rs off : Word) (c : Desc) (nss nsp : Word) (d : Desc) (p : Nat) : Exec Unit := do
  loadCs rs c p off
  loadSeg .ss nss d
  setReg16 .sp nsp
  invalidateIfInner .es p
  invalidateIfInner .ds p

/-- IRET to an outer level (R633). -/
def iretOuter (rs : Word) : Exec Unit := do
  popRoom 10
  let p := rpl rs
  let s ← look id
  let c ← returnCode rs p
  let nsp ← stackWord 6
  let nss ← stackWord 8
  let d ← returnStack nss p
  let off ← stackWord 0
  let f ← stackWord 4
  codeLimit c off
  update fun t => { t with flags := s.popFlags f }
  returnOuter rs off c nss nsp d p

/-- IRET with NT = 1: back to the task the back link names; R631 says nothing of a null one, which R152 never looks up
(log 67). -/
def iretTask : Exec Unit := do
  let bl ← tssWord 0
  require (!isNull bl) (.ts bl)
  require (!isLocal bl) (.ts bl)
  let t ← fetchDesc bl (.ts bl)
  require (t.access &&& 0x1D == 1) (.ts bl)
  require (t.access.getLsbD 1) (.ts bl)
  require t.present (.np bl)
  let ip ← look (·.ip)
  switchTasks bl t .iret ip
  checkTaskIp

/-- IRET in Protected Mode (R630). -/
def iretProt : Exec Unit := do
  let s ← look id
  if s.flag .nt then iretTask
  else
    let rs ← stackWord 2
    require (decide (s.cpl ≤ rpl rs)) (.gp rs)
    if rpl rs = s.cpl then iretSame rs else iretOuter rs

/-- Return from an interrupt or exception; its completion lets NMI in again (R530, R630, R932). -/
def interruptReturn : Exec Unit := do
  let s ← look id
  if s.pe then iretProt else iretReal
  update fun t => { t with nmiInService := false }

end Sys2Proof.Machine
end

