-- ==== Sys2Proof/Machine/Fetch.lean ====
section
/-! DEFINITION. Fetching and decoding at CS:IP (spec/30_encoding.md R250, R251, R275, R290 to R293; spec/20_memory.md R118,
R130). -/

namespace Sys2Proof.Machine

/-- The offset the next instruction byte is fetched at; it does not wrap (R42, R118). -/
def State.fetchOffset (s : State) : Nat := s.ip.toNat + (if s.ipCarry then 0x10000 else 0)

/-- Whether a code byte may be executed at an offset (R118). -/
def State.codeInLimit (s : State) (off : Nat) : Bool := (!s.pe || s.cs.valid) && s.cs.inLimit s.pe off 1

/-- The exception of executing past the code segment's limit (R118), and of 8F /1 to /7 and FF /7 (R292). -/
def codeExn (pe : Bool) : Exn := if pe then .gp 0 else ⟨13, none⟩

/-- The values a byte had since the last control transfer. -/
def State.staleAt (s : State) (a : Addr) : List Byte := (s.stale.filter fun c => c.1 == (s.physical a).toNat).map (·.2)

/-- A code byte: what memory holds, or, if it was overwritten since the last control transfer, any of its values since
then (R130, U5, log 6). -/
def codeByte (off : Nat) : Exec Byte := do
  let s ← look id
  let a := s.cs.addr off
  match s.staleAt a with
  | [] => pure (s.readByte a)
  | olds => do
    let k ← drawNat olds.length
    pure ((s.readByte a :: olds).getD k 0)

/-- At most `n` code bytes from an offset, fewer where the segment ends. -/
def codeBytes : Nat → Nat → Exec (List Byte)
  | 0, _ => pure []
  | n + 1, off => do
    if (← look (·.codeInLimit off)) then
      let b ← codeByte off
      let bs ← codeBytes n (off + 1)
      pure (b :: bs)
    else pure []

/-- IP after `n` bytes of the instruction stream (R42). -/
def State.advanced (s : State) (n : Nat) : State :=
  { s with ip := BitVec.ofNat 16 (s.fetchOffset + n), ipCarry := decide (0x10000 ≤ s.fetchOffset + n) }

/-- The longest instruction, prefixes included (R251). -/
def maxLength : Nat := 10

/-- Fetch and decode one instruction or prefix, leaving IP after it. An eleventh byte is #UD (R251, D13). -/
def fetchInstr : Exec Instr := do
  let s ← look id
  let room := maxLength - s.pfx.count
  let bs ← codeBytes room s.fetchOffset
  match decode bs with
  | .ok (i, rest) => do
    update (·.advanced (bs.length - rest.length))
    pure i
  | .error .truncated => raise (if bs.length < room then codeExn s.pe else .ud)
  | .error .undefined => raise .ud
  | .error .stackGroup => raise (codeExn s.pe)
  | .error .adjustByte => stop (.refused .adjustImmediate)

/-- An instruction begins: its first byte is at IP, TF is sampled, a trap not taken is dropped (R940, D9, D59). -/
def State.begin (s : State) : State :=
  { s with istart := s.ip, tfAtStart := s.flag .tf, stepPending := false }

end Sys2Proof.Machine
end

