-- ==== Sys2Proof/Machine/Boundary.lean ====
section
/-! DEFINITION. What happens between instructions, and before an instruction that looks for events itself: the external inputs,
their priority, halt, shutdown and RESET
(spec/60_exceptions.md R930 to R953; spec/70_reset_and_hazards.md R980 to R982). -/

namespace Sys2Proof.Machine

/-- No input active. -/
def Inputs.none : Inputs := { reset := false, nmi := false, intr := false, vector := 0, writes := [] }

/-- The inputs of this step. -/
def State.input (s : State) : Inputs := s.inputs.head?.getD .none

/-- What other bus masters wrote to memory since the last step (00_scope.md R18, 20_memory.md R135; log 61). Like the
processor's own stores they may come too late for the prefetch queue (R130, U5). They bear physical addresses. -/
def State.busWritten (s : State) : List (Addr × Byte) → State
  | [] => s
  | (a, v) :: t => State.busWritten (s.setRam a v) t

/-- Deliver an external event, which ends a halt; the return address is the next instruction, or the first byte of the
instruction that was going on (R911, R953). -/
def State.deliverExternal (s : State) (vec : Byte) : State :=
  { s with run := .running, held := none }.deliver { vec := vec, code := .none, kind := .external, ret := s.ip }

/-- The boundary of R935: the event of highest priority that can be recognised, delivered. -/
def State.boundary (s : State) (i : Inputs) : Option State :=
  if s.stepPending && !s.inhibitAll then
    some ({ s with stepPending := false }.deliverExternal 1)
  else if s.nmiPending && !s.nmiInService && !s.inhibitAll then
    some ({ s with nmiPending := false, nmiInService := true }.deliverExternal 2)
  else if s.mpPending && !s.nmiInService && !s.inhibitAll then
    some ({ s with mpPending := false }.deliverExternal 9)
  else if i.intr && s.flag .ie && !s.inhibitAll && !s.inhibitIntr then
    some (s.deliverExternal i.vector)
  else .none

/-- The string instructions, which a repeat prefix repeats (R294, R480). -/
def isString : Instr → Bool
  | .movsb | .movsw | .cmpsb | .cmpsw | .scasb | .scasw | .lodsb | .lodsw | .stosb | .stosw | .insb | .insw | .outsb
  | .outsw => true
  | _ => false

/-- An instruction that begins in `s` looks for events before it does anything: a repetition whose CX is not 0 (R480 step 2), and
WAIT past its test for #NM (R561). -/
def State.looksInside (s : State) (i : Instr) : Bool :=
  match i with
  | .wait => !(s.mp && s.ts)
  | _ => isString i && s.pfx.rep.isSome && s.cx != 0

/-- The event that is recognised inside the instruction which follows the prefixes seen, delivered; it saves the offset of the first
prefix. In later iterations and polls the boundary before the held instruction does this (R480, R561, R935). -/
def State.eventInside (s : State) (i : Inputs) : Option State :=
  match fetchInstr s with
  | .ok instr t => if t.looksInside instr then (t.begunAgain instr).boundary i else none
  | .error _ _ => none

/-- The instructions before which LOCK is promised to hold off the other bus masters and which can be repeated (R136). Every other
instruction that goes on over several steps (repeated STOS, LODS, CMPS and SCAS, and WAIT or an ESC that waits) does not lock.
DESIGN CHOICE: the parameter LOCK_OTHER of U6 is taken as "does not lock" (log 71). -/
def locksBus : Instr → Bool
  | .movsb => true
  | .movsw => true
  | .insb => true
  | .insw => true
  | .outsb => true
  | .outsw => true
  | _ => false

/-- The bus is locked by a repetition that goes on: with a LOCK prefix, the whole repetition is one access group (R136, R553). -/
def State.busLocked (s : State) : Bool :=
  match s.held with
  | some h => h.pfx.lock && locksBus h.instr
  | none => false

/-- Writes that have not got the bus wait for the next step. -/
def delayWrites (ws : List (Addr × Byte)) : List Inputs → List Inputs
  | [] => if ws.isEmpty then [] else [{ Inputs.none with writes := ws }]
  | i :: t => { i with writes := ws ++ i.writes } :: t

/-- A step begins: its inputs are consumed, a rising edge of NMI is latched (R932). -/
def State.clocked (s : State) : State :=
  { s with inputs := s.inputs.tail, nmiPending := s.nmiPending || s.input.nmi, clock := s.clock + 1 }

/-- Consume the inputs of this step and make the writes of other bus masters. They wait while the bus is locked, which an event
between two iterations ends (R136, R483). -/
def State.sampled (s : State) : State :=
  if s.busLocked && (s.clocked.boundary s.input).isNone then
    { s.clocked with inputs := delayWrites s.input.writes s.inputs.tail }
  else s.clocked.busWritten s.input.writes

/-- An NMI accepted in shutdown: it ends the shutdown if its delivery meets no error (R951, D62). A task-gate delivery that
faults past the commit point of its switch leaves the shut-down processor in the new task: the model's choice (log 66). -/
def State.nmiInShutdown (s : State) : State :=
  let e : Event := { vec := 2, code := .none, kind := .external, ret := s.ip }
  let t := { s with nmiPending := false, nmiInService := true }
  if s.pe then
    match deliverProt e { t with run := .running } with
    | .ok _ u => u
    | .error (.exn _ true) u => { u with run := .shutdown }
    | .error _ u => { t with free := u.free }
  else if decide (0x000F ≤ s.idtr.limit.toNat) && decide (5 < s.sp.toNat) then
    deliverReal e { t with run := .running }
  else t

/-- One time step of shutdown (R951). -/
def State.shutdownStep (s : State) : State := if s.nmiPending && !s.nmiInService then s.nmiInShutdown else s

/-! ## RESET (R980 to R982, U1, U3, U13, U24) -/

/-- An unspecified system register, from draw `k` on. -/
def openSysReg (k : Nat) : SysReg :=
  { sel := Config.freeWord k, base := Config.freeAddr k, limit := Config.freeWord (k + 1), valid := Config.freeBit k }

/-- An unspecified 80287 pointer, from draw `k` on. -/
def openPointer (k : Nat) : NpxPointer :=
  { sel := Config.freeWord k, off := Config.freeWord (k + 1), real := (Config.freeAddr k).setWidth 20 }

/-- The 80287 after RESET: its registers, pointers and condition codes unspecified (R736, U13). -/
def openNpx (k : Nat) : Npx :=
  { Npx.atReset with
    regs := Vector.ofFn fun i => Config.freeTemp (k + i.val)
    status := Config.freeWord k &&& 0x4700
    ip := openPointer (k + 1)
    op := openPointer (k + 3)
    opcode := (Config.freeWord (k + 5)).setWidth 11 }

/-- Memory after an instruction that RESET abandoned: each byte it would have written is old or new (U24). -/
def abandonedMem (old new : List Host.Cell) : List Host.Cell → Nat → List Host.Cell
  | [], _ => old
  | (a, _) :: t, k =>
    let m := abandonedMem old new t (k + 1)
    if Config.freeBit k then Memory.write m a (Memory.read new a) else m

/-- `Reset()` (R980): everything at its reset value but what RESET leaves unspecified, memory, the platform's record and the
inputs to come. `new` is the memory the abandoned instruction would have left. -/
def State.resetBy (s : State) (new : List Host.Cell) : State :=
  let cells := s.mem ++ new
  let k := s.free + cells.length
  { State.reset with
    ax := Config.freeWord k
    cx := Config.freeWord (k + 1)
    dx := Config.freeWord (k + 2)
    bx := Config.freeWord (k + 3)
    sp := Config.freeWord (k + 4)
    bp := Config.freeWord (k + 5)
    si := Config.freeWord (k + 6)
    di := Config.freeWord (k + 7)
    gdtr := { base := Config.freeAddr (k + 8), limit := Config.freeWord (k + 8) }
    ldtr := openSysReg (k + 9)
    tr := openSysReg (k + 11)
    npx := openNpx (k + 13)
    npxPresent := s.npxPresent
    platform := s.platform
    mem := abandonedMem s.mem new cells s.free
    ioTrace := s.ioTrace
    inputs := s.inputs
    free := k + 21
    clock := s.clock }

end Sys2Proof.Machine
end

