-- ==== Sys2Proof/Machine/Operands.lean ====
section
/-! DEFINITION. The operands of instructions: effective addresses, segment override, registers, memory, immediates
(spec/30_encoding.md R256 to R271). -/

namespace Sys2Proof.Machine

/-! ## Effective addresses (R262 to R265) -/

/-- The base and index sum of an r/m code (R262). -/
def State.baseSum (s : State) : Base → Word
  | .bxSi => s.bx + s.si
  | .bxDi => s.bx + s.di
  | .bpSi => s.bp + s.si
  | .bpDi => s.bp + s.di
  | .si => s.si
  | .di => s.di
  | .bp => s.bp
  | .bx => s.bx

/-- `EA`, modulo 2^16 (R262, R263). -/
def State.ea (s : State) : Mem → Word
  | .direct off => off
  | .ind b => s.baseSum b
  | .disp8 b d => s.baseSum b + sext16 d
  | .disp16 b d => s.baseSum b + d

/-- The default segment of base and index registers: SS with BP, else DS (R264). -/
def baseSegment : Base → Sreg
  | .bpSi => .ss
  | .bpDi => .ss
  | .bp => .ss
  | _ => .ds

/-- The default segment of a memory operand (R264). -/
def memSegment : Mem → Sreg
  | .direct _ => .ds
  | .ind b => baseSegment b
  | .disp8 b _ => baseSegment b
  | .disp16 b _ => baseSegment b

/-- The override segment register if there is a prefix, else the default (R265). -/
def State.overridden (s : State) (d : Sreg) : Sreg := s.pfx.seg.getD d

/-- `SEG` of a memory operand (R264, R265). -/
def State.memSeg (s : State) (m : Mem) : Sreg := s.overridden (memSegment m)

/-! ## Places of `n` bits that an instruction reads and writes (`ReadE`, `WriteE`, `ReadR`, `WriteR`, R266) -/

/-- A place: how it is read, how it is written, and whether it can be written. -/
structure Place (n : Nat) where
  read : Exec (BitVec n)
  write : BitVec n → Exec Unit
  writable : State → Except Exn Unit

/-- A byte register. -/
def Place.reg8 (r : Reg8) : Place 8 :=
  { read := look (·.reg8 r), write := setReg8 r, writable := fun _ => .ok () }

/-- A word register. -/
def Place.reg16 (r : Reg16) : Place 16 :=
  { read := look (·.reg16 r), write := setReg16 r, writable := fun _ => .ok () }

/-- A memory byte at the segment and offset that the state gives. -/
def Place.mem8 (S : State → Sreg) (off : State → Word) : Place 8 :=
  { read := fun s => load8 (S s) (off s).toNat s
    write := fun v s => store8 (S s) (off s).toNat v s
    writable := fun s => s.checkWrite (S s) (off s).toNat 1 }

/-- A memory word at the segment and offset that the state gives. -/
def Place.mem16 (S : State → Sreg) (off : State → Word) : Place 16 :=
  { read := fun s => load16 (S s) (off s).toNat s
    write := fun v s => store16 (S s) (off s).toNat v s
    writable := fun s => s.checkWrite (S s) (off s).toNat 2 }

/-- The place of an `eb` operand. -/
def placeEb : Eb → Place 8
  | .reg r => .reg8 r
  | .mem m => .mem8 (·.memSeg m) (·.ea m)

/-- The place of an `ew` operand. -/
def placeEw : Ew → Place 16
  | .reg r => .reg16 r
  | .mem m => .mem16 (·.memSeg m) (·.ea m)

/-- The place of an `xb` operand (R271). -/
def placeXb (off : Word) : Place 8 := .mem8 (·.overridden .ds) fun _ => off

/-- The place of an `xw` operand (R271). -/
def placeXw (off : Word) : Place 16 := .mem16 (·.overridden .ds) fun _ => off

/-- Read the word `k` bytes into a memory operand; the offset is not reduced modulo 2^16 (D1). -/
def memWord (m : Mem) (k : Nat) : Exec Word := fun s => load16 (s.memSeg m) ((s.ea m).toNat + k) s

/-- Store a word `k` bytes into a memory operand; the offset is not reduced modulo 2^16 (D1). -/
def storeMemWord (m : Mem) (k : Nat) (v : Word) : Exec Unit :=
  fun s => store16 (s.memSeg m) ((s.ea m).toNat + k) v s

/-- The far pointer `ed` in memory: offset, then selector (R266). -/
def readFarPointer (m : Mem) : Exec (Word × Word) := do
  let off ← memWord m 0
  let sel ← memWord m 2
  pure (off, sel)

/-! ## Read, compute, write -/

/-- Replace what a place holds by what `op` computes from it and `b` (R370). -/
def modify {n : Nat} (op : (k : Nat) → BitVec k → BitVec k → Exec (BitVec k)) (p : Place n) (b : BitVec n) : Exec Unit := do
  let a ← p.read
  let v ← op n a b
  p.write v

/-- Compute from what a place holds and `b`, for the flags only (R376, R426). -/
def compare {n : Nat} (op : (k : Nat) → BitVec k → BitVec k → Exec (BitVec k)) (p : Place n) (b : BitVec n) : Exec Unit := do
  let a ← p.read
  let _ ← op n a b

/-- After a write-protect fault of ADC, SBB, RCL or RCR each flag it would have written is old or new (R904, U11). -/
def spoilFlags (old : Word) : List Flag → Exec Unit
  | [] => pure ()
  | f :: fs => do
    let keepNew ← drawBit
    if keepNew then pure () else setFlag f (flagOf old f)
    spoilFlags old fs

/-- Raise an exception that leaves the state as it stands, the saved IP being the first byte of the instruction (R904). -/
def raiseSpoiled {α : Type} (x : Exn) : Exec α := do
  update fun s => { s with ip := s.istart, ipCarry := false }
  raiseKept x

/-- Write a place, except that a write-protect fault is not restartable: `spoil` says what it leaves changed (R904). -/
def writeOrSpoil {n : Nat} (p : Place n) (v : BitVec n) (spoil : Exec Unit) : Exec Unit := do
  match (← look p.writable) with
  | .ok () => p.write v
  | .error x => do
    spoil
    raiseSpoiled x

/-- `modify` for ADC and SBB (R904, U11). -/
def modifyOrSpoil {n : Nat} (op : (k : Nat) → BitVec k → BitVec k → Exec (BitVec k)) (p : Place n) (b : BitVec n) :
    Exec Unit := do
  let a ← p.read
  let old ← look (·.flags)
  let v ← op n a b
  writeOrSpoil p v (spoilFlags old [.cf, .pf, .af, .zf, .sf, .of])

/-- The nine operand forms shared by ADD, OR, ADC, SBB, AND, SUB, XOR, CMP (41_arithmetic.md R371). -/
def aluForm (k : (n : Nat) → Place n → BitVec n → Exec Unit) : AluForm → Exec Unit
  | .ebRb e r => do k 8 (placeEb e) (← look (·.reg8 r))
  | .ewRw e r => do k 16 (placeEw e) (← look (·.reg16 r))
  | .rbEb r e => do k 8 (.reg8 r) (← (placeEb e).read)
  | .rwEw r e => do k 16 (.reg16 r) (← (placeEw e).read)
  | .alDb v => k 8 (.reg8 .al) v
  | .axDw v => k 16 (.reg16 .ax) v
  | .ebDb e v => k 8 (placeEb e) v
  | .ewDw e v => k 16 (placeEw e) v
  | .ewDb e v => k 16 (placeEw e) (sext16 v)

end Sys2Proof.Machine
end

