-- ==== Sys2Proof/Machine/Flags.lean ====
section
/-! DEFINITION. The flag computations of addition, subtraction, logic and shifts (spec/00_scope.md R15). -/

namespace Sys2Proof.Machine

/-- `PF(r)`: the low eight bits hold an even number of ones (R15). -/
def evenParity {n : Nat} (r : BitVec n) : Bool :=
  !(r.getLsbD 0 ^^ r.getLsbD 1 ^^ r.getLsbD 2 ^^ r.getLsbD 3 ^^ r.getLsbD 4 ^^ r.getLsbD 5 ^^ r.getLsbD 6 ^^ r.getLsbD 7)

/-- ZF, SF and PF of a result (R15). -/
def resultFlags {n : Nat} (flags : Word) (r : BitVec n) : Word :=
  putFlag (putFlag (putFlag flags .zf (r == 0)) .sf r.msb) .pf (evenParity r)

/-- All six arithmetic flags. -/
def arithFlags {n : Nat} (flags : Word) (cf af of : Bool) (r : BitVec n) : Word :=
  putFlag (putFlag (putFlag (resultFlags flags r) .cf cf) .af af) .of of

/-- The low four bits as a number. -/
def lowNibble {n : Nat} (a : BitVec n) : Nat := (a.extractLsb' 0 4).toNat

/-- CF of a + b + c (R15). -/
def addCarry {n : Nat} (a b : BitVec n) (c : Bool) : Bool := decide (2 ^ n ≤ a.toNat + b.toNat + bitNat c)

/-- AF of a + b + c (R15). -/
def addAux {n : Nat} (a b : BitVec n) (c : Bool) : Bool := decide (16 ≤ lowNibble a + lowNibble b + bitNat c)

/-- OF of a + b + c: the exact signed sum is out of range (R15). -/
def addOverflow {n : Nat} (a b : BitVec n) (c : Bool) : Bool :=
  let t : Int := a.toInt + b.toInt + (bitNat c : Int)
  decide (t < -(2 ^ (n - 1) : Int) ∨ (2 ^ (n - 1) : Int) ≤ t)

/-- CF of a - b - c (R15). -/
def subCarry {n : Nat} (a b : BitVec n) (c : Bool) : Bool := decide (a.toNat < b.toNat + bitNat c)

/-- AF of a - b - c (R15). -/
def subAux {n : Nat} (a b : BitVec n) (c : Bool) : Bool := decide (lowNibble a < lowNibble b + bitNat c)

/-- OF of a - b - c: the exact signed difference is out of range (R15). -/
def subOverflow {n : Nat} (a b : BitVec n) (c : Bool) : Bool :=
  let t : Int := a.toInt - b.toInt - (bitNat c : Int)
  decide (t < -(2 ^ (n - 1) : Int) ∨ (2 ^ (n - 1) : Int) ≤ t)

/-- a + b + c modulo 2^n. -/
def addValue {n : Nat} (a b : BitVec n) (c : Bool) : BitVec n := a + b + BitVec.ofNat n (bitNat c)

/-- a - b - c modulo 2^n. -/
def subValue {n : Nat} (a b : BitVec n) (c : Bool) : BitVec n := a - b - BitVec.ofNat n (bitNat c)

/-- FLAGS after an addition (R15). -/
def addFlags {n : Nat} (flags : Word) (a b : BitVec n) (c : Bool) : Word :=
  arithFlags flags (addCarry a b c) (addAux a b c) (addOverflow a b c) (addValue a b c)

/-- FLAGS after a subtraction (R15). -/
def subFlags {n : Nat} (flags : Word) (a b : BitVec n) (c : Bool) : Word :=
  arithFlags flags (subCarry a b c) (subAux a b c) (subOverflow a b c) (subValue a b c)

/-- FLAGS after AND, OR, XOR or TEST, AF apart (42_logic_shift.md R421). -/
def logicFlags {n : Nat} (flags : Word) (r : BitVec n) : Word :=
  putFlag (putFlag (resultFlags flags r) .cf false) .of false

/-- Replace FLAGS. -/
def setFlags (f : Word → Word) : Exec Unit := update fun s => { s with flags := f s.flags }

/-- Leave flags undefined, one open bit each (93_implementation_defined.md Part 2). -/
def undefineFlags : List Flag → Exec Unit
  | [] => pure ()
  | f :: fs => do
    undefineFlag f
    undefineFlags fs

/-- An addition with its flags. -/
def addOp (c : Bool) (n : Nat) (a b : BitVec n) : Exec (BitVec n) := do
  setFlags (addFlags · a b c)
  pure (addValue a b c)

/-- A subtraction with its flags. -/
def subOp (c : Bool) (n : Nat) (a b : BitVec n) : Exec (BitVec n) := do
  setFlags (subFlags · a b c)
  pure (subValue a b c)

/-- A logical operation with its flags; AF is undefined (R421). -/
def logicOp (op : (k : Nat) → BitVec k → BitVec k → BitVec k) (n : Nat) (a b : BitVec n) : Exec (BitVec n) := do
  setFlags (logicFlags · (op n a b))
  undefineFlag .af
  pure (op n a b)

end Sys2Proof.Machine
end

