-- ==== Sys2Proof/Machine/Arithmetic.lean ====
section
/-! DEFINITION. Binary and decimal arithmetic (spec/41_arithmetic.md). -/

namespace Sys2Proof.Machine

/-! ## Addition and subtraction (R372 to R379) -/

/-- ADD (R372). -/
def execAdd (f : AluForm) (s : State) : Result := finish (aluForm (fun _ => modify (addOp false)) f) s

/-- ADC (R373). -/
def execAdc (f : AluForm) (s : State) : Result :=
  finish (aluForm (fun _ => modifyOrSpoil (addOp (s.flag .cf))) f) s

/-- SUB (R374). -/
def execSub (f : AluForm) (s : State) : Result := finish (aluForm (fun _ => modify (subOp false)) f) s

/-- SBB (R375). -/
def execSbb (f : AluForm) (s : State) : Result :=
  finish (aluForm (fun _ => modifyOrSpoil (subOp (s.flag .cf))) f) s

/-- CMP (R376). -/
def execCmp (f : AluForm) (s : State) : Result := finish (aluForm (fun _ => compare (subOp false)) f) s

/-- INC and DEC leave CF (R377, R378). -/
def keepCarry (op : (k : Nat) → BitVec k → BitVec k → Exec (BitVec k)) (n : Nat) (a b : BitVec n) : Exec (BitVec n) := do
  let cf ← look (·.flag .cf)
  let v ← op n a b
  setFlag .cf cf
  pure v

/-- The rows of INC and DEC. -/
def incForm (op : (k : Nat) → BitVec k → BitVec k → Exec (BitVec k)) : IncForm → Exec Unit
  | .eb e => modify (keepCarry op) (placeEb e) 1
  | .ew e => modify (keepCarry op) (placeEw e) 1
  | .rw r => modify (keepCarry op) (.reg16 r) 1

/-- INC (R377). -/
def execInc (f : IncForm) (s : State) : Result := finish (incForm (addOp false) f) s

/-- DEC (R378). -/
def execDec (f : IncForm) (s : State) : Result := finish (incForm (subOp false) f) s

/-- 0 - a, with the flags of the subtraction (R379). -/
def negOp (n : Nat) (a _b : BitVec n) : Exec (BitVec n) := subOp false n 0 a

/-- NEG (R379). -/
def execNeg (f : UnaryForm) (s : State) : Result :=
  finish
    (match f with
    | .eb e => modify negOp (placeEb e) 0
    | .ew e => modify negOp (placeEw e) 0) s

/-! ## Multiplication (R380 to R382) -/

/-- CF and OF of a multiplication; SF, ZF, AF and PF are undefined (R380). -/
def mulFlags (overflow : Bool) : Exec Unit := do
  setFlag .cf overflow
  setFlag .of overflow
  undefineFlags [.sf, .zf, .af, .pf]

/-- Write the doubleword DX:AX. -/
def setDxAx (p : BitVec 32) : Exec Unit := do
  setReg16 .dx (p.extractLsb' 16 16)
  setReg16 .ax (p.extractLsb' 0 16)

/-- MUL (R380). -/
def execMul (f : UnaryForm) (s : State) : Result :=
  finish
    (match f with
    | .eb e => do
      let b ← (placeEb e).read
      let p := zext16 (s.reg8 .al) * zext16 b
      setReg16 .ax p
      mulFlags (hiByte p != 0)
    | .ew e => do
      let b ← (placeEw e).read
      let p := s.ax.setWidth 32 * b.setWidth 32
      setDxAx p
      mulFlags (p.extractLsb' 16 16 != 0)) s

/-- The three-operand IMUL: the low word of the exact product (R382). -/
def imulImmediate (r : Reg16) (e : Ew) (b : Word) : Exec Unit := do
  let a ← (placeEw e).read
  let p : Int := a.toInt * b.toInt
  setReg16 r (BitVec.ofInt 16 p)
  mulFlags (decide (p < -32768 ∨ 32767 < p))

/-- IMUL (R381, R382). -/
def execImul (f : ImulForm) (s : State) : Result :=
  finish
    (match f with
    | .eb e => do
      let b ← (placeEb e).read
      let p := sext16 (s.reg8 .al) * sext16 b
      setReg16 .ax p
      mulFlags (p != sext16 (loByte p))
    | .ew e => do
      let b ← (placeEw e).read
      let p := s.ax.signExtend 32 * b.signExtend 32
      setDxAx p
      mulFlags (p != (p.extractLsb' 0 16).signExtend 32)
    | .rwEwDw r e v => imulImmediate r e v
    | .rwEwDb r e v => imulImmediate r e (sext16 v)) s

/-! ## Division (R383 to R385) -/

/-- A completed division leaves all six arithmetic flags undefined (R383). -/
def divFlags : Exec Unit := undefineFlags [.of, .sf, .zf, .af, .pf, .cf]

/-- The dividend DX:AX. -/
def State.dxAx (s : State) : BitVec 32 := s.dx ++ s.ax

/-- DIV: #DE for a zero divisor or a quotient that does not fit (R383, R385). -/
def execDiv (f : UnaryForm) (s : State) : Result :=
  finish
    (match f with
    | .eb e => do
      let d ← (placeEb e).read
      require (d != 0) .de
      let q := s.ax.toNat / d.toNat
      require (decide (q ≤ 0xFF)) .de
      setReg16 .ax (mkWord (BitVec.ofNat 8 (s.ax.toNat % d.toNat)) (BitVec.ofNat 8 q))
      divFlags
    | .ew e => do
      let d ← (placeEw e).read
      require (d != 0) .de
      let q := s.dxAx.toNat / d.toNat
      require (decide (q ≤ 0xFFFF)) .de
      setReg16 .ax (BitVec.ofNat 16 q)
      setReg16 .dx (BitVec.ofNat 16 (s.dxAx.toNat % d.toNat))
      divFlags) s

/-- IDIV: the quotient is truncated toward zero, the remainder has the dividend's sign (R384, R385). -/
def execIdiv (f : UnaryForm) (s : State) : Result :=
  finish
    (match f with
    | .eb e => do
      let d ← (placeEb e).read
      require (d != 0) .de
      let q := s.ax.toInt.tdiv d.toInt
      require (decide (-128 ≤ q ∧ q ≤ 127)) .de
      setReg16 .ax (mkWord (BitVec.ofInt 8 (s.ax.toInt.tmod d.toInt)) (BitVec.ofInt 8 q))
      divFlags
    | .ew e => do
      let d ← (placeEw e).read
      require (d != 0) .de
      let q := s.dxAx.toInt.tdiv d.toInt
      require (decide (-32768 ≤ q ∧ q ≤ 32767)) .de
      setReg16 .ax (BitVec.ofInt 16 q)
      setReg16 .dx (BitVec.ofInt 16 (s.dxAx.toInt.tmod d.toInt))
      divFlags) s

/-! ## Decimal adjustment (R386 to R391) -/

/-- DAA and DAS: `adjust` adds or subtracts (R386, R387). -/
def decimalAdjust (adjust : Byte → Byte → Byte) : Exec Unit := do
  let s ← look id
  let al := s.reg8 .al
  let low := decide (9 < lowNibble al) || s.flag .af
  let al1 := if low then adjust al 6 else al
  let high := decide (0x9F < al1.toNat) || s.flag .cf
  let al2 := if high then adjust al1 0x60 else al1
  setReg8 .al al2
  setFlags fun f => putFlag (putFlag (resultFlags f al2) .af low) .cf high
  undefineFlag .of

/-- DAA (R386). -/
def execDaa (s : State) : Result := finish (decimalAdjust (· + ·)) s

/-- DAS (R387). -/
def execDas (s : State) : Result := finish (decimalAdjust (· - ·)) s

/-- AAA and AAS (R388, R389). -/
def asciiAdjust (adjust : Byte → Byte → Byte) : Exec Unit := do
  let s ← look id
  let al := s.reg8 .al
  let low := decide (9 < lowNibble al) || s.flag .af
  setReg8 .al ((if low then adjust al 6 else al) &&& 0x0F)
  if low then setReg8 .ah (adjust (s.reg8 .ah) 1) else pure ()
  setFlag .af low
  setFlag .cf low
  undefineFlags [.of, .sf, .zf, .pf]

/-- AAA (R388). -/
def execAaa (s : State) : Result := finish (asciiAdjust (· + ·)) s

/-- AAS (R389). -/
def execAas (s : State) : Result := finish (asciiAdjust (· - ·)) s

/-- The flags of AAM and AAD: SF, ZF, PF from the new AL, the rest undefined (R390, D20). -/
def adjustFlags (al : Byte) : Exec Unit := do
  setFlags (resultFlags · al)
  undefineFlags [.of, .af, .cf]

/-- AAM (R390). -/
def execAam (s : State) : Result :=
  finish (do
    let al := (s.reg8 .al).toNat
    let r := BitVec.ofNat 8 (al % 10)
    setReg16 .ax (mkWord (BitVec.ofNat 8 (al / 10)) r)
    adjustFlags r) s

/-- AAD (R391). -/
def execAad (s : State) : Result :=
  finish (do
    let r := s.reg8 .al + 10 * s.reg8 .ah
    setReg16 .ax (mkWord 0 r)
    adjustFlags r) s

end Sys2Proof.Machine
end

