-- ==== Sys2Proof/Machine/ControlTransfer.lean ====
section
/-! DEFINITION. Control transfer: near and conditional forms in both modes, far forms in Real Address Mode
(spec/44_control_transfer.md) and in Protected Mode (spec/46_protected_transfers.md R600 to R618). -/

namespace Sys2Proof.Machine

/-! ## Near transfers (R490 to R494) -/

/-- The target lies within the code segment, else #GP(0); the test cannot fail in Real Address Mode (R491). -/
def checkTarget (t : Word) : Exec Unit := do
  let s ← look id
  require (!s.pe || decide (t.toNat ≤ s.cs.limit.toNat)) (.gp 0)

/-- Load IP with `t` (R491). -/
def nearTo (t : Word) : Exec Unit := do
  checkTarget t
  update (·.jumpTo t)

/-- The offset a relative displacement names: added to the offset of the next instruction (R492). -/
def State.relative (s : State) (d : Word) : Word := s.ip + d

/-- A conditional short jump (R499). -/
def jumpIf (c : Bool) (d : Byte) (s : State) : Result :=
  finish (if c then nearTo (s.relative (sext16 d)) else pure ()) s

/-! ## Far transfers of one task (46_protected_transfers.md R593, R600 to R609) -/

/-- The tests on a code segment named directly (R601, R606). -/
def codeTarget (sel : Word) (d : Desc) : Exec Unit := do
  let cpl ← look (·.cpl)
  if d.conforming then require (decide (d.dpl ≤ cpl)) (.gp sel)
  else
    require (decide (rpl sel ≤ cpl)) (.gp sel)
    require (decide (d.dpl = cpl)) (.gp sel)
  require d.present (.np sel)

/-- The tests on a gate or task state segment named by JMP or CALL: CPL and RPL against its DPL, then P (R593). -/
def gateAccess (sel : Word) (g : Desc) : Exec Unit := do
  let cpl ← look (·.cpl)
  require (decide (cpl ≤ g.dpl) && decide (rpl sel ≤ g.dpl)) (.gp sel)
  require g.present (.np sel)

/-- The code segment descriptor that a call gate names (R602, R607). -/
def gateCode (g : Desc) : Exec Desc := do
  require (!isNull g.selector) (.gp 0)
  let c ← fetchDesc g.selector (.gp g.selector)
  require c.isCode (.gp g.selector)
  pure c

/-- JMP to a code segment (R601). -/
def jmpCode (sel off : Word) (d : Desc) : Exec Unit := do
  codeTarget sel d
  codeLimit d off
  loadCs sel d (← look (·.cpl)) off

/-- JMP to a call gate (R602). -/
def jmpGate (sel : Word) (g : Desc) : Exec Unit := do
  gateAccess sel g
  let c ← gateCode g
  let cpl ← look (·.cpl)
  require (if c.conforming then decide (c.dpl ≤ cpl) else decide (c.dpl = cpl)) (.gp g.selector)
  require c.present (.np g.selector)
  codeLimit c g.offset
  loadCs g.selector c cpl g.offset

/-- JMP or CALL to a task gate (R603, R610). -/
def transferTaskGate (src : SwitchSource) (sel : Word) (g : Desc) : Exec Unit := do
  gateAccess sel g
  let t ← gateTss g.selector
  switchTasks g.selector t src (← look (·.ip))
  checkTaskIp

/-- JMP or CALL to an available task state segment (R604, R611). -/
def transferTss (src : SwitchSource) (sel : Word) (t : Desc) : Exec Unit := do
  gateAccess sel t
  switchTasks sel t src (← look (·.ip))
  checkTaskIp

/-- Far JMP in Protected Mode (R600). -/
def jmpFarProt (sel off : Word) : Exec Unit := do
  require (!isNull sel) (.gp 0)
  let d ← fetchDesc sel (.gp sel)
  if d.isCode then jmpCode sel off d
  else if d.type = 4 then jmpGate sel d
  else if d.type = 5 then transferTaskGate .jmp sel d
  else if d.type = 1 then transferTss .jmp sel d
  else raise (.gp sel)

/-- Far JMP (R495, R496, R600). -/
def jmpFar (sel off : Word) : Exec Unit := do
  if (← look (·.pe)) then jmpFarProt sel off else farReal sel off

/-- CALL to a code segment at the caller's level: room, limit, pushes, load (R606, R609). -/
def callSame (sel off : Word) (d : Desc) : Exec Unit := do
  pushRoom 2
  codeLimit d off
  let s ← look id
  pushAll [s.cs.sel, s.ip]
  loadCs sel d s.cpl off

/-- The parameter words on the caller's stack, offsets modulo 2^16, in ascending order (R608, D30). -/
def readParams (sp : Word) : Nat → Exec (List Word)
  | 0 => pure []
  | k + 1 => do
    let v ← load16 .ss sp.toNat
    let vs ← readParams (sp + 2) k
    pure (v :: vs)

/-- CALL through a call gate to more privilege (R608). -/
def callInner (g c : Desc) : Exec Unit := do
  let s ← look id
  let (sp, ss) ← innerStack c.dpl
  let d ← innerStackDesc ss c.dpl (.ts 0)
  roomOn (d.load ss) sp (4 + g.count)
  codeLimit c g.offset
  let params ← readParams s.sp g.count
  loadSeg .ss ss d
  setReg16 .sp sp
  loadCs g.selector c c.dpl g.offset
  pushAll ([s.ss.sel, s.sp] ++ params.reverse ++ [s.cs.sel, s.ip])

/-- CALL to a call gate (R607). -/
def callGate (sel : Word) (g : Desc) : Exec Unit := do
  gateAccess sel g
  let c ← gateCode g
  let cpl ← look (·.cpl)
  require (decide (c.dpl ≤ cpl)) (.gp g.selector)
  require c.present (.np g.selector)
  if !c.conforming && decide (c.dpl < cpl) then callInner g c else callSame g.selector g.offset c

/-- Far CALL in Protected Mode (R605). -/
def callFarProt (sel off : Word) : Exec Unit := do
  require (!isNull sel) (.gp 0)
  let d ← fetchDesc sel (.gp sel)
  if d.isCode then do
    codeTarget sel d
    callSame sel off d
  else if d.type = 4 then callGate sel d
  else if d.type = 5 then transferTaskGate .call sel d
  else if d.type = 1 then transferTss .call sel d
  else raise (.gp sel)

/-- Far CALL in Real Address Mode (R523). -/
def callFarReal (sel off : Word) : Exec Unit := do
  pushRoom 2
  let s ← look id
  pushAll [s.cs.sel, s.ip]
  farReal sel off

/-- Far CALL (R523, R524, R605). -/
def callFar (sel off : Word) : Exec Unit := do
  if (← look (·.pe)) then callFarProt sel off else callFarReal sel off

/-- Near CALL: stack test, target test, push (R521, D24). -/
def callNear (t : Word) : Exec Unit := do
  pushRoom 1
  checkTarget t
  let ip ← look (·.ip)
  update (·.pushWord ip)
  update (·.jumpTo t)

/-! ## JMP and CALL -/

/-- JMP (R492 to R496). -/
def execJmp (f : JmpForm) (s : State) : Result :=
  finish
    (match f with
    | .short d => nearTo (s.relative (sext16 d))
    | .near d => nearTo (s.relative d)
    | .ew e => do nearTo (← (placeEw e).read)
    | .far off sel => jmpFar sel off
    | .ed m => do
      let (off, sel) ← readFarPointer m
      jmpFar sel off) s

/-- CALL (R521 to R524). -/
def execCall (f : CallForm) (s : State) : Result :=
  finish
    (match f with
    | .near d => callNear (s.relative d)
    | .ew e => do callNear (← (placeEw e).read)
    | .far off sel => callFar sel off
    | .ed m => do
      let (off, sel) ← readFarPointer m
      callFar sel off) s

/-! ## Conditional jumps (R500 to R516) -/

/-- JO (R500). -/
def execJo (d : Byte) (s : State) : Result := jumpIf (s.flag .of) d s
/-- JNO (R501). -/
def execJno (d : Byte) (s : State) : Result := jumpIf (!s.flag .of) d s
/-- JB (R502). -/
def execJb (d : Byte) (s : State) : Result := jumpIf (s.flag .cf) d s
/-- JAE (R503). -/
def execJae (d : Byte) (s : State) : Result := jumpIf (!s.flag .cf) d s
/-- JE (R504). -/
def execJe (d : Byte) (s : State) : Result := jumpIf (s.flag .zf) d s
/-- JNE (R505). -/
def execJne (d : Byte) (s : State) : Result := jumpIf (!s.flag .zf) d s
/-- JBE (R506). -/
def execJbe (d : Byte) (s : State) : Result := jumpIf (s.flag .cf || s.flag .zf) d s
/-- JA (R507). -/
def execJa (d : Byte) (s : State) : Result := jumpIf (!s.flag .cf && !s.flag .zf) d s
/-- JS (R508). -/
def execJs (d : Byte) (s : State) : Result := jumpIf (s.flag .sf) d s
/-- JNS (R509). -/
def execJns (d : Byte) (s : State) : Result := jumpIf (!s.flag .sf) d s
/-- JP (R510). -/
def execJp (d : Byte) (s : State) : Result := jumpIf (s.flag .pf) d s
/-- JNP (R511). -/
def execJnp (d : Byte) (s : State) : Result := jumpIf (!s.flag .pf) d s
/-- JL (R512). -/
def execJl (d : Byte) (s : State) : Result := jumpIf (s.flag .sf != s.flag .of) d s
/-- JGE (R513). -/
def execJge (d : Byte) (s : State) : Result := jumpIf (s.flag .sf == s.flag .of) d s
/-- JLE (R514). -/
def execJle (d : Byte) (s : State) : Result := jumpIf (s.flag .zf || s.flag .sf != s.flag .of) d s
/-- JG (R515). -/
def execJg (d : Byte) (s : State) : Result := jumpIf (!s.flag .zf && s.flag .sf == s.flag .of) d s
/-- JCXZ (R516). -/
def execJcxz (d : Byte) (s : State) : Result := jumpIf (s.cx == 0) d s

/-! ## Loops (R517 to R519) -/

/-- Decrement CX; jump if it is not zero and the condition holds. A #GP(0) leaves CX (R517, D24). -/
def loopIf (c : Bool) (d : Byte) (s : State) : Result :=
  finish (do
    setReg16 .cx (s.cx - 1)
    if s.cx - 1 != 0 && c then nearTo (s.relative (sext16 d)) else pure ()) s

/-- LOOP (R517). -/
def execLoop (d : Byte) (s : State) : Result := loopIf true d s
/-- LOOPE (R518). -/
def execLoope (d : Byte) (s : State) : Result := loopIf (s.flag .zf) d s
/-- LOOPNE (R519). -/
def execLoopne (d : Byte) (s : State) : Result := loopIf (!s.flag .zf) d s

/-! ## RET (R525, R526; 46_protected_transfers.md R615 to R617) -/

/-- Near RET, releasing `n` bytes (R525). -/
def retNear (n : Word) : Exec Unit := do
  let t ← pop
  checkTarget t
  update fun s => { s with sp := s.sp + n }
  update (·.jumpTo t)

/-- Far RET in Real Address Mode (R526). -/
def retFarReal (n : Word) : Exec Unit := do
  let off ← frameWord 0
  let sel ← frameWord 2
  update fun s => { s with sp := s.sp + 4 + n }
  farReal sel off

/-- Far RET to the same level (R616). -/
def retFarSame (rs n : Word) : Exec Unit := do
  let s ← look id
  let c ← returnCode rs s.cpl
  let off ← stackWord 0
  codeLimit c off
  loadCs rs c s.cpl off
  setReg16 .sp (s.sp + 4 + n)

/-- Far RET to an outer level; the immediate is released on both stacks (R617, C83). -/
def retFarOuter (rs n : Word) : Exec Unit := do
  popRoom (8 + n.toNat)
  let p := rpl rs
  let c ← returnCode rs p
  let nss ← stackWord (6 + n.toNat)
  let nsp ← stackWord (4 + n.toNat)
  let d ← returnStack nss p
  let off ← stackWord 0
  codeLimit c off
  returnOuter rs off c nss (nsp + n) d p

/-- Far RET in Protected Mode (R615). -/
def retFarProt (n : Word) : Exec Unit := do
  let rs ← stackWord 2
  let cpl ← look (·.cpl)
  require (decide (cpl ≤ rpl rs)) (.gp rs)
  if rpl rs = cpl then retFarSame rs n else retFarOuter rs n

/-- Far RET, releasing `n` bytes. -/
def retFar (n : Word) : Exec Unit := do
  if (← look (·.pe)) then retFarProt n else retFarReal n

/-- RET (R525, R526). -/
def execRet (f : RetForm) (s : State) : Result :=
  finish
    (match f with
    | .near => retNear 0
    | .nearImm n => retNear n
    | .far => retFar 0
    | .farImm n => retFar n) s

/-! ## Software interrupts and IRET (R527 to R530) -/

/-- INT db (R527). -/
def execInt (v : Byte) (s : State) : Result := finish (softInt v) s

/-- INT 3 (R528). -/
def execInt3 (s : State) : Result := finish (softInt 3) s

/-- INTO (R529). -/
def execInto (s : State) : Result := finish (if s.flag .of then softInt 4 else pure ()) s

/-- IRET (R530, R630). -/
def execIret (s : State) : Result := finish interruptReturn s

end Sys2Proof.Machine
end

