-- ==== Sys2Proof/Machine/DataMovement.lean ====
section
/-! DEFINITION. Data movement, stack, port, address and flag-transfer instructions (spec/40_data_movement.md). -/

namespace Sys2Proof.Machine

/-! ## MOV (R321 to R328) -/

/-- A load of a segment register ends with the inhibit of R936 when the register is SS. -/
def sregEnding (r : Sreg) : Ending := if r = .ss then .inhibitAll else .done

/-- MOV sreg,ew (R324). CS is no destination: #UD (30_encoding.md R300). -/
def movSreg (r : Sreg) (e : Ew) : Exec Ending := do
  require (r != .cs) .ud
  let v ← (placeEw e).read
  loadSreg r v
  pure (sregEnding r)

/-- The rows of MOV. -/
def movBody : MovForm → Exec Ending
  | .ebRb e r => do
    (placeEb e).write (← look (·.reg8 r))
    pure .done
  | .ewRw e r => do
    (placeEw e).write (← look (·.reg16 r))
    pure .done
  | .rbEb r e => do
    setReg8 r (← (placeEb e).read)
    pure .done
  | .rwEw r e => do
    setReg16 r (← (placeEw e).read)
    pure .done
  | .ewSreg e r => do
    (placeEw e).write (← look fun s => (s.seg r).sel)
    pure .done
  | .sregEw r e => movSreg r e
  | .alXb off => do
    setReg8 .al (← (placeXb off).read)
    pure .done
  | .axXw off => do
    setReg16 .ax (← (placeXw off).read)
    pure .done
  | .xbAl off => do
    (placeXb off).write (← look (·.reg8 .al))
    pure .done
  | .xwAx off => do
    (placeXw off).write (← look (·.reg16 .ax))
    pure .done
  | .rbDb r v => do
    setReg8 r v
    pure .done
  | .rwDw r v => do
    setReg16 r v
    pure .done
  | .ebDb e v => do
    (placeEb e).write v
    pure .done
  | .ewDw e v => do
    (placeEw e).write v
    pure .done

/-- MOV (R321 to R328). -/
def execMov (f : MovForm) (s : State) : Result := conclude (movBody f) s

/-! ## The stack (R330 to R341) -/

/-- What PUSH pushes; SP as it was before the instruction (R331, R335 to R337). -/
def pushSource : PushForm → Exec Word
  | .rw r => look (·.reg16 r)
  | .sreg r => look fun s => (s.seg r).sel
  | .mw e => (placeEw e).read
  | .dw v => pure v
  | .db v => pure (sext16 v)

/-- PUSH (R331, R335, R336, R337). -/
def execPush (f : PushForm) (s : State) : Result :=
  finish (do
    let v ← pushSource f
    push v) s

/-- POP into a segment register: SP moves after the load has succeeded; CS is excluded (R333, 30_encoding.md R300). -/
def popSreg (r : Sreg) : Exec Ending := do
  require (r != .cs) .ud
  let sp ← look (·.sp)
  let v ← load16 .ss sp.toNat
  loadSreg r v
  setReg16 .sp (sp + 2)
  pure (sregEnding r)

/-- The rows of POP. A memory destination never depends on SP, so SP moves before the write here, and a fault of the write
takes it back (R332, R334). -/
def popBody : PopForm → Exec Ending
  | .rw r => do
    let v ← pop
    setReg16 r v
    pure .done
  | .sreg r => popSreg r
  | .mw e => do
    let v ← pop
    (placeEw e).write v
    pure .done

/-- POP (R332 to R334). -/
def execPop (f : PopForm) (s : State) : Result := conclude (popBody f) s

/-- An odd SP from which the sixteen bytes of PUSHA, or of POPA, would meet offset FFFFH (R338, R339, C70). -/
def oddWrap (sp : Word) (first : Bool) : Bool :=
  sp.getLsbD 0 && (if first then decide (sp.toNat ≤ 15) else decide (0xFFF1 ≤ sp.toNat))

/-- How many words PUSHA pushes before SP is 0000H: all eight unless an even SP wraps in between (R338). -/
def pushedWords (sp : Word) : Nat := if sp.toNat % 2 = 0 ∧ 0 < sp.toNat ∧ sp.toNat < 16 then sp.toNat / 2 else 8

/-- The tests PUSHA makes first: in Protected Mode every word it pushes, and the last of the eight, lie within the limit, else
#SS(0); in Real Address Mode an odd SP up to 15 means interrupt 13, or shutdown for 1, 3, 5. Nothing has changed then (R330, R338,
C70, D18, log 15). -/
def pushaRoom : Exec Unit := do
  let s ← look id
  let odd := oddWrap s.sp true
  if s.pe then
    require s.ss.valid (.gp 0)
    require (!odd && s.ss.pushRoom true s.sp (pushedWords s.sp) && s.ss.inLimit true (s.sp - 16).toNat 2) (.ss 0)
  else if odd then
    if s.sp.toNat ≤ 5 then stop .shutdown else raise ⟨13, none⟩
  else pure ()

/-- Push the words one by one. In Protected Mode SP does not wrap: the push at SP = 0000H raises #SS(0), the words already pushed
staying in memory and SP at 0000H (R338, R117). `wraps`: SP would go through 0000H. -/
def pushEach (wraps : Bool) : List Word → Exec Unit
  | [] => pure ()
  | v :: vs => do
    if wraps && (← look (·.sp)) == 0 then raiseSpoiled (.ss 0)
    else
      update (·.pushWord v)
      pushEach wraps vs

/-- PUSHA (R338). -/
def execPusha (s : State) : Result :=
  finish (do
    pushaRoom
    let t ← look id
    pushEach (t.pe && t.sp != 0) [t.ax, t.cx, t.dx, t.bx, t.sp, t.bp, t.si, t.di]) s

/-- The tests POPA makes first: in Protected Mode the first and the last word lie within the limit, else #SS(0); in Real
Address Mode an odd SP from FFF1H means interrupt 13. Nothing has changed then (R339, C70, D18, log 15). -/
def popaRoom : Exec Unit := do
  let s ← look id
  let odd := oddWrap s.sp false
  if s.pe then do
    testRead .ss s.sp.toNat 2
    testRead .ss (s.sp + 14).toNat 2
    require (!odd) (.ss 0)
  else require (!odd) ⟨13, none⟩

/-- Pop the registers one by one; `none` discards the word. In Protected Mode SP does not wrap: the pop at SP = 0000H, or one past
the limit, raises #SS(0), the registers already popped having changed (R339, R117). -/
def popEach (wraps : Bool) : List (Option Reg16) → Exec Unit
  | [] => pure ()
  | r :: rs => do
    let s ← look id
    if wraps && s.sp == 0 then raiseSpoiled (.ss 0)
    else
      match s.load16 .ss s.sp.toNat with
      | .error x => raiseSpoiled x
      | .ok v => do
        let sp := s.sp + 2
        update fun t => { (match r with | some q => t.setReg16 q v | none => t) with sp := sp }
        popEach wraps rs

/-- POPA; the word for SP is read and discarded (R339). -/
def execPopa (s : State) : Result :=
  finish (do
    popaRoom
    let t ← look id
    popEach (t.pe && t.sp != 0)
      [some .di, some .si, some .bp, none, some .bx, some .dx, some .cx, some .ax]) s

/-- PUSHF (R340). -/
def execPushf (s : State) : Result :=
  finish (do
    let v ← readFlags
    push v) s

/-- POPF (R341). -/
def execPopf (s : State) : Result :=
  finish (do
    let v ← pop
    update fun t => { t with flags := t.popFlags v }) s

/-! ## XCHG and XLAT (R342 to R344) -/

/-- XCHG of a place and a register; after a write-protect fault the register holds its old value or the place's (R342,
R904, U11). -/
def exchange {n : Nat} (p r : Place n) : Exec Unit := do
  let a ← p.read
  let b ← r.read
  writeOrSpoil p b (do
    let takesNew ← drawBit
    if takesNew then r.write a else pure ())
  r.write a

/-- XCHG (R342, R343). -/
def execXchg (f : XchgForm) (s : State) : Result :=
  finish
    (match f with
    | .ebRb e r => exchange (placeEb e) (.reg8 r)
    | .ewRw e r => exchange (placeEw e) (.reg16 r)
    | .axRw r => exchange (.reg16 .ax) (.reg16 r)) s

/-- XLAT (R344). -/
def execXlat (s : State) : Result :=
  finish (do
    let v ← (Place.mem8 (·.overridden .ds) fun t => t.bx + zext16 (t.reg8 .al)).read
    setReg8 .al v) s

/-! ## Ports (R345, R346) -/

/-- The port of an IN or OUT row. -/
def portOf : PortForm → Exec Word
  | .byteImm p => pure (zext16 p)
  | .wordImm p => pure (zext16 p)
  | .byteDx => look (·.dx)
  | .wordDx => look (·.dx)

/-- Whether a row transfers a word. -/
def portIsWord : PortForm → Bool
  | .byteImm _ => false
  | .wordImm _ => true
  | .byteDx => false
  | .wordDx => true

/-- IN (R345). -/
def execInp (f : PortForm) (s : State) : Result :=
  finish (do
    requireIopl
    let port ← portOf f
    if portIsWord f then setReg16 .ax (← portInWord port) else setReg8 .al (← portIn port)) s

/-- OUT (R346). -/
def execOutp (f : PortForm) (s : State) : Result :=
  finish (do
    requireIopl
    let port ← portOf f
    if portIsWord f then portOutWord port (← look (·.ax)) else portOut port (← look (·.reg8 .al))) s

/-! ## Addresses and far pointers (R347 to R349) -/

/-- LEA: the offset alone, no memory reference (R347). -/
def execLea (r : Reg16) (m : Mem) (s : State) : Result :=
  finish (do setReg16 r (← look (·.ea m))) s

/-- Load a segment register and a word register from a far pointer (R348). -/
def loadFarPointer (seg : Sreg) (r : Reg16) (m : Mem) : Exec Unit := do
  let (off, sel) ← readFarPointer m
  loadSreg seg sel
  setReg16 r off

/-- LDS (R348). -/
def execLds (r : Reg16) (m : Mem) (s : State) : Result := finish (loadFarPointer .ds r m) s

/-- LES (R349). -/
def execLes (r : Reg16) (m : Mem) (s : State) : Result := finish (loadFarPointer .es r m) s

/-! ## Flags through AH, sign extension (R352 to R355) -/

/-- LAHF: bits 5, 3 and 1 are open (R352, U2). -/
def execLahf (s : State) : Result :=
  finish (do setReg8 .ah (loByte (← readFlags))) s

/-- SAHF: SF, ZF, AF, PF, CF (R353). -/
def execSahf (s : State) : Result :=
  finish (do
    let v ← look (·.reg8 .ah)
    setFlags fun f => (f &&& ~~~0x00D5) ||| (zext16 v &&& 0x00D5)) s

/-- CBW (R354). -/
def execCbw (s : State) : Result :=
  finish (do setReg16 .ax (← look fun t => sext16 (t.reg8 .al))) s

/-- CWD (R355). -/
def execCwd (s : State) : Result :=
  finish (do setReg16 .dx (← look fun t => if t.ax.msb then 0xFFFF else 0)) s

end Sys2Proof.Machine
end

