-- ==== Sys2Proof/Machine/FlagMisc.lean ====
section
/-! DEFINITION. Flag control, trusted instructions, NOP, ENTER, LEAVE, BOUND, WAIT, and the prefixes
(spec/45_flag_misc_extended.md, spec/30_encoding.md R252). -/

namespace Sys2Proof.Machine

/-! ## Flags (R541 to R545) -/

/-- CLC (R541). -/
def execClc (s : State) : Result := finish (setFlag .cf false) s

/-- STC (R542). -/
def execStc (s : State) : Result := finish (setFlag .cf true) s

/-- CMC (R543). -/
def execCmc (s : State) : Result := finish (setFlag .cf (!s.flag .cf)) s

/-- CLD (R544). -/
def execCld (s : State) : Result := finish (setFlag .df false) s

/-- STD (R545). -/
def execStd (s : State) : Result := finish (setFlag .df true) s

/-! ## Trusted and privileged instructions (R546 to R550) -/

/-- CLI (R547). -/
def execCli (s : State) : Result :=
  finish (do
    requireIopl
    setFlag .ie false) s

/-- STI: INTR is held off until after the next instruction if IF was 0 (R548, D26). -/
def execSti (s : State) : Result :=
  conclude (do
    requireIopl
    setFlag .ie true
    pure (if s.flag .ie then .done else .inhibitIntr)) s

/-- HLT (R549). -/
def execHlt (s : State) : Result :=
  finish (do
    requireCpl0
    update fun t => { t with run := .halted }) s

/-- NOP (R550). -/
def execNop (s : State) : Result := finish (pure ()) s

/-! ## ENTER, LEAVE, BOUND (R555 to R557) -/

/-- A push of ENTER below the copy `sp` of SP: the new copy. Protected Mode: a failed test is #SS(0) with SP and BP
unchanged, words already stored staying stored; Real Address Mode: shutdown at offset FFFFH (R555, D25). -/
def enterPush (sp v : Word) : Exec Word := fun s =>
  match s.store16 .ss (sp - 2).toNat v with
  | .ok s' => .ok (sp - 2) s'
  | .error x => if s.pe then raiseSpoiled x s else .error .shutdown s

/-- A display word, read through SS (R555). -/
def enterRead (bp : Word) : Exec Word := fun s =>
  match s.load16 .ss bp.toNat with
  | .ok v => .ok v s
  | .error x => raiseSpoiled x s

/-- Copy `k` display words; the answer is the new copy of SP (R555). -/
def enterDisplay (bp sp : Word) : Nat → Exec Word
  | 0 => pure sp
  | k + 1 => do
    let v ← enterRead (bp - 2)
    let sp' ← enterPush sp v
    enterDisplay (bp - 2) sp' k

/-- The local area of `n` bytes below `sp` lies within the stack segment without wrapping; Protected Mode only (R555, D25). -/
def enterLocals (sp n : Word) : Exec Unit := fun s =>
  if !s.pe || n == 0 then .ok () s
  else if n.toNat ≤ sp.toNat then
    match s.checkWrite .ss (sp.toNat - n.toNat) n.toNat with
    | .ok () => .ok () s
    | .error x => raiseSpoiled x s
  else raiseSpoiled (.ss 0) s

/-- ENTER (R555). -/
def execEnter (size : Word) (level : Byte) (s : State) : Result :=
  finish (do
    let k := level.toNat % 32
    let frame ← enterPush s.sp s.bp
    let sp ←
      if k = 0 then pure frame
      else do
        let sp ← enterDisplay s.bp frame (k - 1)
        enterPush sp frame
    enterLocals sp size
    setReg16 .bp frame
    setReg16 .sp (sp - size)) s

/-- LEAVE (R556). -/
def execLeave (s : State) : Result :=
  finish (do
    let t ← load16 .ss s.bp.toNat
    setReg16 .sp (s.bp + 2)
    setReg16 .bp t) s

/-- BOUND (R557). -/
def execBound (r : Reg16) (m : Mem) (s : State) : Result :=
  finish (do
    let lo ← memWord m 0
    let hi ← memWord m 2
    require (decide (lo.toInt ≤ (s.reg16 r).toInt ∧ (s.reg16 r).toInt ≤ hi.toInt)) .br) s

/-! ## WAIT (R561) -/

/-- The BUSY input: active while the 80287 waits after a segment overrun (R732, U16); inactive with none fitted (D27). -/
def State.npxBusy (s : State) : Bool := s.npxPresent && s.npx.busy

/-- ES: an exception flag is set whose mask is clear (48_npx_state_and_data.md R719). -/
def Npx.es (n : Npx) : Bool := n.status.extractLsb' 0 6 &&& ~~~n.control.extractLsb' 0 6 != 0

/-- The ERROR input (50_npx_exceptions_interface.md R772); inactive with none fitted (D27). -/
def State.npxError (s : State) : Bool := s.npxPresent && s.npx.es

/-- WAIT: #NM with MP and TS, else wait while BUSY, else #MF on ERROR unless EM (R561). -/
def execWait (s : State) : Result :=
  conclude (do
    require (!(s.mp && s.ts)) .nm
    if s.npxBusy then pure (.again .wait)
    else do
      require (s.em || !s.npxError) .mf
      pure .done) s

/-! ## Prefixes (30_encoding.md R252, R265, R294; log 1) -/

/-- Record a prefix of the instruction that follows; the last of a class takes effect (D14). -/
def State.withPrefix (s : State) (f : Prefixes → Prefixes) : State :=
  { s with pfx := { f s.pfx with count := s.pfx.count + 1 } }

/-- ES: (R265). -/
def execSegEs (s : State) : Result := .next (s.withPrefix fun p => { p with seg := some .es })

/-- CS: (R265). -/
def execSegCs (s : State) : Result := .next (s.withPrefix fun p => { p with seg := some .cs })

/-- SS: (R265). -/
def execSegSs (s : State) : Result := .next (s.withPrefix fun p => { p with seg := some .ss })

/-- DS: (R265). -/
def execSegDs (s : State) : Result := .next (s.withPrefix fun p => { p with seg := some .ds })

/-- REP, REPE, REPZ (43_string.md R480); without effect before a non-string instruction (U10). -/
def execRep (s : State) : Result := .next (s.withPrefix fun p => { p with rep := some .rep })

/-- REPNE, REPNZ (R480). -/
def execRepne (s : State) : Result := .next (s.withPrefix fun p => { p with rep := some .repne })

/-- LOCK: #GP(0) with CPL > IOPL, else a prefix, which holds off other bus masters while MOVS, INS or OUTS goes on
(`State.busLocked`; R136, R553, log 61), before others not: the model's choice (U6, log 71). -/
def execLock (s : State) : Result :=
  match requireIopl s with
  | .ok _ t => .next (t.withPrefix fun p => { p with lock := true })
  | .error _ _ => finish requireIopl s

end Sys2Proof.Machine
end

