-- ==== Sys2Proof/Machine/LogicShift.lean ====
section
/-! DEFINITION. Logical, test, shift and rotate instructions (spec/42_logic_shift.md). -/

namespace Sys2Proof.Machine

/-! ## Logic (R422 to R426) -/

/-- Bitwise AND at any width. -/
def bitAnd (n : Nat) (a b : BitVec n) : BitVec n := a &&& b

/-- Bitwise OR at any width. -/
def bitOr (n : Nat) (a b : BitVec n) : BitVec n := a ||| b

/-- Bitwise XOR at any width. -/
def bitXor (n : Nat) (a b : BitVec n) : BitVec n := a ^^^ b

/-- AND (R422). -/
def execAnd (f : AluForm) (s : State) : Result := finish (aluForm (fun _ => modify (logicOp bitAnd)) f) s

/-- OR (R423). -/
def execOr (f : AluForm) (s : State) : Result := finish (aluForm (fun _ => modify (logicOp bitOr)) f) s

/-- XOR (R424). -/
def execXor (f : AluForm) (s : State) : Result := finish (aluForm (fun _ => modify (logicOp bitXor)) f) s

/-- The complement, no flag changed (R425). -/
def notOp (n : Nat) (a _b : BitVec n) : Exec (BitVec n) := pure (~~~a)

/-- NOT (R425). -/
def execNot (f : UnaryForm) (s : State) : Result :=
  finish
    (match f with
    | .eb e => modify notOp (placeEb e) 0
    | .ew e => modify notOp (placeEw e) 0) s

/-- TEST (R426). -/
def execTest (f : TestForm) (s : State) : Result :=
  finish
    (match f with
    | .ebRb e r => compare (logicOp bitAnd) (placeEb e) (s.reg8 r)
    | .ewRw e r => compare (logicOp bitAnd) (placeEw e) (s.reg16 r)
    | .alDb v => compare (logicOp bitAnd) (.reg8 .al) v
    | .axDw v => compare (logicOp bitAnd) (.reg16 .ax) v
    | .ebDb e v => compare (logicOp bitAnd) (placeEb e) v
    | .ewDw e v => compare (logicOp bitAnd) (placeEw e) v) s

/-! ## Shifts and rotates (R430 to R441) -/

/-- One step: from value and carry to value and carry. -/
abbrev ShiftStep := (n : Nat) → BitVec n → Bool → BitVec n × Bool

/-- SAL, SHL (R435). -/
def shlStep (n : Nat) (v : BitVec n) (_cf : Bool) : BitVec n × Bool := (v <<< 1, v.msb)

/-- SHR (R436). -/
def shrStep (n : Nat) (v : BitVec n) (_cf : Bool) : BitVec n × Bool := (v >>> 1, v.getLsbD 0)

/-- SAR (R437). -/
def sarStep (n : Nat) (v : BitVec n) (_cf : Bool) : BitVec n × Bool := (v.sshiftRight 1, v.getLsbD 0)

/-- ROL (R438). -/
def rolStep (n : Nat) (v : BitVec n) (_cf : Bool) : BitVec n × Bool := (putBit (v <<< 1) 0 v.msb, v.msb)

/-- ROR (R439). -/
def rorStep (n : Nat) (v : BitVec n) (_cf : Bool) : BitVec n × Bool :=
  (putBit (v >>> 1) (n - 1) (v.getLsbD 0), v.getLsbD 0)

/-- RCL (R440). -/
def rclStep (n : Nat) (v : BitVec n) (cf : Bool) : BitVec n × Bool := (putBit (v <<< 1) 0 cf, v.msb)

/-- RCR (R441). -/
def rcrStep (n : Nat) (v : BitVec n) (cf : Bool) : BitVec n × Bool := (putBit (v >>> 1) (n - 1) cf, v.getLsbD 0)

/-- `count` steps (R432). -/
def shiftSteps {n : Nat} (step : ShiftStep) : Nat → BitVec n × Bool → BitVec n × Bool
  | 0, x => x
  | k + 1, x => shiftSteps step k (step n x.1 x.2)

/-- The count, masked to five bits (R431). -/
def State.shiftCount (s : State) : Count → Nat
  | .one => 1
  | .cl => (s.reg8 .cl &&& 0x1F).toNat
  | .imm v => (v &&& 0x1F).toNat

/-- OF after a count of 1: left forms CF xor the top bit, right forms the two top bits (R433). -/
def shiftOverflow {n : Nat} (left : Bool) (x : BitVec n × Bool) : Bool :=
  if left then x.2 ^^ x.1.msb else x.1.msb ^^ x.1.getLsbD (n - 2)

/-- The flags of a shift or rotate: none but OF for a count of 0; CF; OF, undefined unless the count is 1; for a shift SF, ZF,
PF and an undefined AF (R432 to R434). -/
def shiftFlags {n : Nat} (left isShift : Bool) (count : Nat) (x : BitVec n × Bool) : Exec Unit := do
  if count = 0 then undefineFlag .of
  else
    setFlag .cf x.2
    if count = 1 then setFlag .of (shiftOverflow left x) else undefineFlag .of
    if isShift then
      setFlags (resultFlags · x.1)
      undefineFlag .af
    else pure ()

/-- Which shift or rotate: its step, its direction, whether it is a shift, whether it goes through the carry. -/
structure ShiftKind where
  step : ShiftStep
  left : Bool
  isShift : Bool
  throughCarry : Bool

/-- The skeleton of all seven operations (R432); a write-protect fault of RCL and RCR leaves CF and OF old or new (R904, U11). -/
def shiftPlace {n : Nat} (k : ShiftKind) (c : Count) (p : Place n) : Exec Unit := do
  let a ← p.read
  let s ← look id
  let count := s.shiftCount c
  let x := shiftSteps k.step count (a, s.flag .cf)
  shiftFlags k.left k.isShift count x
  if k.throughCarry then writeOrSpoil p x.1 (spoilFlags s.flags [.cf, .of]) else p.write x.1

/-- The rows of a shift or rotate (R430). -/
def shiftForm (k : ShiftKind) : ShiftForm → Exec Unit
  | .eb e c => shiftPlace k c (placeEb e)
  | .ew e c => shiftPlace k c (placeEw e)

/-- ROL (R438). -/
def execRol (f : ShiftForm) (s : State) : Result := finish (shiftForm ⟨rolStep, true, false, false⟩ f) s

/-- ROR (R439). -/
def execRor (f : ShiftForm) (s : State) : Result := finish (shiftForm ⟨rorStep, false, false, false⟩ f) s

/-- RCL (R440). -/
def execRcl (f : ShiftForm) (s : State) : Result := finish (shiftForm ⟨rclStep, true, false, true⟩ f) s

/-- RCR (R441). -/
def execRcr (f : ShiftForm) (s : State) : Result := finish (shiftForm ⟨rcrStep, false, false, true⟩ f) s

/-- SAL, SHL (R435). -/
def execShl (f : ShiftForm) (s : State) : Result := finish (shiftForm ⟨shlStep, true, true, false⟩ f) s

/-- SHR (R436). -/
def execShr (f : ShiftForm) (s : State) : Result := finish (shiftForm ⟨shrStep, false, true, false⟩ f) s

/-- SAR (R437). -/
def execSar (f : ShiftForm) (s : State) : Result := finish (shiftForm ⟨sarStep, false, true, false⟩ f) s

end Sys2Proof.Machine
end

