-- ==== Sys2Proof/Machine/Float.lean ====
section
/-! DEFINITION. The 80287's numbers: the fields and classes of a temporary real, exact values, rounding, and the memory
formats (spec/48_npx_state_and_data.md R721 to R726, R740 to R748). No state. -/

namespace Sys2Proof.Machine

/-! ## Temporary reals (R744) -/

/-- The sign. -/
def signOf (t : Temp) : Bool := t.getLsbD 79

/-- The biased exponent field. -/
def expOf (t : Temp) : Nat := (t.extractLsb' 64 15).toNat

/-- The significand field. -/
def sigOf (t : Temp) : Nat := (t.extractLsb' 0 64).toNat

/-- A temporary real from its fields. -/
def mkTemp (neg : Bool) (e m : Nat) : Temp := BitVec.ofBool neg ++ BitVec.ofNat 15 e ++ BitVec.ofNat 64 m

/-- The classes of R744; a pseudo zero is an unnormal whose significand is 0. -/
inductive NumClass where
  | zero
  | denormal
  | normal
  | unnormal
  | infinity
  | nan
  deriving DecidableEq, Repr

/-- The class of a temporary real. -/
def classOf (t : Temp) : NumClass :=
  if expOf t = 0 then (if sigOf t = 0 then .zero else .denormal)
  else if expOf t = 0x7FFF then (if sigOf t = 2 ^ 63 then .infinity else .nan)
  else if 2 ^ 63 ≤ sigOf t then .normal else .unnormal

/-- A pseudo zero. -/
def isPseudoZero (t : Temp) : Bool := classOf t == .unnormal && sigOf t == 0

/-- Zero, denormal, normal or unnormal. -/
def isFinite (t : Temp) : Bool := classOf t != .infinity && classOf t != .nan

/-- The tag of a value: 00 valid, 01 zero, 10 special (R725, R726). -/
def tagOf (t : Temp) : BitVec 2 :=
  match classOf t with
  | .zero => 1
  | .denormal => 2
  | .infinity => 2
  | .nan => 2
  | .normal => 0
  | .unnormal => 0

/-- A signed zero. -/
def zeroOf (neg : Bool) : Temp := mkTemp neg 0 0

/-- A signed infinity. -/
def infinityOf (neg : Bool) : Temp := mkTemp neg 0x7FFF (2 ^ 63)

/-- Real indefinite (R748). -/
def indefinite : Temp := 0xFFFFC000000000000000

/-- The same value with the other sign. -/
def negated (t : Temp) : Temp := t ^^^ (1#80 <<< 79)

/-- The work copy of an operand: a denormal becomes the equivalent unnormal (50_npx_exceptions_interface.md R750). -/
def workCopy (t : Temp) : Temp := if classOf t = .denormal then mkTemp (signOf t) 1 (sigOf t) else t

/-! ## Exact values -/

/-- A magnitude and a sign: `(-1)^neg * mant * 2^exp`. A quotient or root that is no such number is held with its last bit
set below every bit a rounding keeps, which rounds alike. -/
structure Value where
  neg : Bool
  mant : Nat
  exp : Int
  deriving DecidableEq, Repr

/-- The number of bits of a natural number. -/
def bitLength (n : Nat) : Nat := if n = 0 then 0 else n.log2 + 1

/-- The value of a finite temporary real (R744). -/
def valueOf (t : Temp) : Value := { neg := signOf t, mant := sigOf t, exp := (max (expOf t) 1 : Nat) - 16446 }

/-- The exponent of a nonzero value: it lies in `[2^x, 2^(x+1))`. -/
def Value.top (v : Value) : Int := v.exp + bitLength v.mant - 1

/-- The two magnitudes over one power of two. -/
def Value.aligned (a b : Value) : Nat × Nat × Int :=
  let g := min a.exp b.exp
  (a.mant * 2 ^ (a.exp - g).toNat, b.mant * 2 ^ (b.exp - g).toNat, g)

/-- The sum; a zero sum takes the sign that `down`, round toward minus infinity, or equal signs give it
(50_npx_exceptions_interface.md R752). -/
def Value.add (a b : Value) (down : Bool) : Value :=
  let (x, y, g) := a.aligned b
  if a.neg = b.neg then { neg := a.neg, mant := x + y, exp := g }
  else if y < x then { neg := a.neg, mant := x - y, exp := g }
  else if x < y then { neg := b.neg, mant := y - x, exp := g }
  else { neg := down, mant := 0, exp := g }

/-- The product. -/
def Value.mul (a b : Value) : Value := { neg := a.neg != b.neg, mant := a.mant * b.mant, exp := a.exp + b.exp }

/-- The quotient by a nonzero value: 130 bits below the dividend, then a bit for what is left. -/
def Value.div (a b : Value) : Value :=
  let n := a.mant * 2 ^ 130
  { neg := a.neg != b.neg, mant := 2 * (n / b.mant) + (if n % b.mant = 0 then 0 else 1), exp := a.exp - b.exp - 131 }

/-- The integer square root, one bit at a time: the largest root below `r + 2^bits`. -/
def isqrt (n : Nat) : Nat → Nat → Nat
  | 0, r => r
  | k + 1, r => isqrt n k (if (r + 2 ^ k) * (r + 2 ^ k) ≤ n then r + 2 ^ k else r)

/-- The square root of a positive value. -/
def Value.sqrt (a : Value) : Value :=
  let odd : Nat := (a.exp % 2).toNat
  let n := a.mant * 2 ^ (140 + odd)
  let r := isqrt n 110 0
  { neg := false, mant := 2 * r + (if r * r = n then 0 else 1), exp := (a.exp - 140 - odd) / 2 - 1 }

/-- `a < b`. -/
def Value.lt (a b : Value) : Bool :=
  let (x, y, _) := a.aligned b
  let p : Int := if a.neg then -x else x
  let q : Int := if b.neg then -y else y
  decide (p < q)

/-- The magnitudes compared: `|a| < |b|`. -/
def Value.absLt (a b : Value) : Bool :=
  let (x, y, _) := a.aligned b
  decide (x < y)

/-! ## Rounding (R721) -/

/-- The four modes of RC. -/
inductive Rounding where
  | nearest
  | down
  | up
  | chop
  deriving DecidableEq, Repr

/-- RC, control word bits 11:10 (R720, R721). -/
def roundingOf (control : Word) : Rounding :=
  match (control.extractLsb' 10 2).toNat with
  | 0 => .nearest
  | 1 => .down
  | 2 => .up
  | _ => .chop

/-- PC, control word bits 9:8: the bits of the significand (R722, D40). -/
def precisionOf (control : Word) : Nat :=
  match (control.extractLsb' 8 2).toNat with
  | 0 => 24
  | 2 => 53
  | _ => 64

/-- IC, control word bit 12: affine closure (R723). -/
def affineOf (control : Word) : Bool := control.getLsbD 12

/-- `m / 2^k` rounded to an integer, and whether it was inexact. -/
def roundShift (rc : Rounding) (neg : Bool) (m k : Nat) : Nat × Bool :=
  let q := m / 2 ^ k
  let r := m % 2 ^ k
  let up :=
    match rc with
    | .nearest => decide (2 ^ k < 2 * r) || (decide (2 * r = 2 ^ k) && q % 2 == 1)
    | .down => neg && r != 0
    | .up => !neg && r != 0
    | .chop => false
  (if up then q + 1 else q, r != 0)

/-- The value rounded to a multiple `q * 2^g`: `q`, and whether it was inexact. -/
def Value.roundAt (v : Value) (rc : Rounding) (g : Int) : Nat × Bool :=
  if g ≤ v.exp then (v.mant * 2 ^ (v.exp - g).toNat, false) else roundShift rc v.neg v.mant (g - v.exp).toNat

/-- A result with unbounded exponent: significand field, exponent of its integer bit, inexact. -/
structure Rounded where
  sig : Nat
  top : Int
  inexact : Bool
  deriving DecidableEq, Repr

/-- A nonzero value rounded to `p` significant bits of which the first `k` are zero: `k = 0` gives a normal number, `k > 0` an
unnormal one, rounded to the precision that remains (R721; 50_npx_exceptions_interface.md R751). -/
def Value.rounded (v : Value) (rc : Rounding) (p k : Nat) : Rounded :=
  let n := p - k
  let (q, inexact) := v.roundAt rc (v.top - ((n : Int) - 1))
  if q = 2 ^ n then { sig := 2 ^ (n - 1) * 2 ^ (64 - p), top := v.top + 1 + k, inexact := inexact }
  else { sig := q * 2 ^ (64 - p), top := v.top + k, inexact := inexact }

/-- The temporary real of a value that one holds exactly; zero keeps its sign. -/
def exactTemp (v : Value) : Temp :=
  if v.mant = 0 then zeroOf v.neg
  else
    let r := v.rounded .chop 64 0
    mkTemp v.neg (r.top + 16383).toNat r.sig

/-- What a masked overflow delivers, as `none` for infinity or the largest exponent with the significand given
(50_npx_exceptions_interface.md R756, R764). -/
def overflowsToInfinity (rc : Rounding) (neg : Bool) : Bool :=
  match rc with
  | .nearest => true
  | .chop => true
  | .up => !neg
  | .down => neg

/-! ## Memory formats (R740 to R748); images are numbers, little-endian words -/

/-- The number a list of words holds, lowest word first (R740). -/
def imageOf : List Word → Nat
  | [] => 0
  | w :: ws => w.toNat + 65536 * imageOf ws

/-- The `n` low words of a number. -/
def wordsOf : Nat → Nat → List Word
  | 0, _ => []
  | n + 1, x => BitVec.ofNat 16 x :: wordsOf n (x / 65536)

/-- A short or long real: fraction bits, exponent bits (R743). -/
structure RealFormat where
  frac : Nat
  ebits : Nat
  deriving DecidableEq, Repr

/-- Short real (R743). -/
def shortReal : RealFormat := { frac := 23, ebits := 8 }

/-- Long real (R743). -/
def longReal : RealFormat := { frac := 52, ebits := 11 }

/-- The exponent bias. -/
def RealFormat.bias (f : RealFormat) : Nat := 2 ^ (f.ebits - 1) - 1

/-- The number of words. -/
def RealFormat.words (f : RealFormat) : Nat := (f.frac + f.ebits + 1) / 16

/-- Sign, exponent field and fraction field of an image. -/
def RealFormat.fields (f : RealFormat) (img : Nat) : Bool × Nat × Nat :=
  (img / 2 ^ (f.frac + f.ebits) % 2 == 1, img / 2 ^ f.frac % 2 ^ f.ebits, img % 2 ^ f.frac)

/-- An image from sign, exponent field and fraction; a fraction of `2^frac` carries into the exponent. -/
def RealFormat.image (f : RealFormat) (neg : Bool) (e m : Nat) : Nat :=
  (if neg then 2 ^ (f.frac + f.ebits) else 0) + e * 2 ^ f.frac + m

/-- The image is a denormal (R743). -/
def RealFormat.isDenormal (f : RealFormat) (img : Nat) : Bool :=
  let (_, e, m) := f.fields img
  e == 0 && m != 0

/-- The exact temporary real of an image; a denormal becomes the equivalent unnormal (R745). -/
def RealFormat.widen (f : RealFormat) (img : Nat) : Temp :=
  let (neg, e, m) := f.fields img
  let m' := m * 2 ^ (63 - f.frac)
  if e = 0 then (if m = 0 then zeroOf neg else mkTemp neg (16384 - f.bias) m')
  else if e = 2 ^ f.ebits - 1 then (if m = 0 then infinityOf neg else mkTemp neg 0x7FFF (2 ^ 63 + m'))
  else mkTemp neg (e + 16383 - f.bias) (2 ^ 63 + m')

/-- The fraction bits of a significand, integer bit dropped, chopped (R746). -/
def RealFormat.chopped (f : RealFormat) (t : Temp) : Nat := sigOf t / 2 ^ (63 - f.frac) % 2 ^ f.frac

/-- Real indefinite of the format (R748). -/
def RealFormat.indefinite (f : RealFormat) : Nat := f.image true (2 ^ f.ebits - 1) (2 ^ (f.frac - 1))

/-- The format's infinity. -/
def RealFormat.infinity (f : RealFormat) (neg : Bool) : Nat := f.image neg (2 ^ f.ebits - 1) 0

/-- The format's largest finite number. -/
def RealFormat.largest (f : RealFormat) (neg : Bool) : Nat := f.image neg (2 ^ f.ebits - 2) (2 ^ f.frac - 1)

/-- The exact temporary real of an `n`-bit two's complement image (R741). -/
def integerTemp (n img : Nat) : Temp :=
  if img < 2 ^ (n - 1) then exactTemp { neg := false, mant := img, exp := 0 }
  else exactTemp { neg := true, mant := 2 ^ n - img, exp := 0 }

/-- Eighteen packed digits as a number, lowest first; `none` with a digit above 9 (R742). -/
def unpackDigits : Nat → Nat → Option Nat
  | 0, _ => some 0
  | k + 1, img =>
    match unpackDigits k (img / 16) with
    | none => none
    | some hi => if img % 16 ≤ 9 then some (img % 16 + 10 * hi) else none

/-- A number as packed digits (R742). -/
def packDigits : Nat → Nat → Nat
  | 0, _ => 0
  | k + 1, x => x % 10 + 16 * packDigits k (x / 10)

/-- The temporary real of a packed decimal image; bits 6:0 of the sign byte are ignored (R742). -/
def packedTemp (img : Nat) : Option Temp :=
  (unpackDigits 18 (img % 2 ^ 72)).map fun x => exactTemp { neg := img / 2 ^ 79 % 2 == 1, mant := x, exp := 0 }

/-- The packed decimal image of a number below 10^18 (R742). -/
def packedImage (neg : Bool) (x : Nat) : Nat := (if neg then 2 ^ 79 else 0) + packDigits 18 x

/-- Packed decimal indefinite: FFH FFH above eight bytes of 00H (R742, D44). -/
def packedIndefinite : Nat := 0xFFFF * 2 ^ 64

end Sys2Proof.Machine
end

