-- ==== Sys2Proof/Machine/NpxOps.lean ====
section
/-! DEFINITION. The 80287's registers, stack, exception flags and pointers, its operand transfers, and what every ESC has in
common (spec/48_npx_state_and_data.md R715 to R736; spec/50_npx_exceptions_interface.md R760 to R774;
spec/45_flag_misc_extended.md R560). -/

namespace Sys2Proof.Machine

/-! ## Registers (R715, R716, R725) -/

/-- TOP, status word bits 13:11 (R716, R717). -/
def Npx.top (n : Npx) : BitVec 3 := n.status.extractLsb' 11 3

/-- Change TOP. -/
def Npx.setTop (n : Npx) (t : BitVec 3) : Npx :=
  { n with status := (n.status &&& 0xC7FF) ||| (t.setWidth 16 <<< 11) }

/-- The physical number of `ST(i)` (R716). -/
def Npx.phys (n : Npx) (i : BitVec 3) : Fin 8 := (n.top + i).toFin

/-- `ST(i)` (R716). -/
def Npx.st (n : Npx) (i : BitVec 3) : Temp := n.regs[n.phys i]

/-- `TAG(i) = Empty` (R725). -/
def Npx.isEmpty (n : Npx) (i : BitVec 3) : Bool := n.empty.getLsbD (n.phys i).val

/-- Write `ST(i)`, whose tag is then not Empty (R726). -/
def Npx.setSt (n : Npx) (i : BitVec 3) (v : Temp) : Npx :=
  { n with regs := n.regs.set (n.phys i) v, empty := putBit n.empty (n.phys i).val false }

/-- `TAG(i) <- Empty`; the contents stay (R716, R878). -/
def Npx.free (n : Npx) (i : BitVec 3) : Npx := { n with empty := putBit n.empty (n.phys i).val true }

/-- `NpxPop` (R716). -/
def Npx.pop (n : Npx) : Npx := (n.free 0).setTop (n.top + 1)

/-- `NpxPush` without its test (R716). -/
def Npx.push (n : Npx) (v : Temp) : Npx := (n.setTop (n.top - 1)).setSt 0 v

/-- The status word: ES derived in bit 7, B in bit 15, bit 6 zero (R717, R719, R732). -/
def Npx.statusWord (n : Npx) : Word :=
  putBit (putBit (n.status &&& 0x7F3F) 7 n.es) 15 (n.busy || n.es)

/-- The tag of the physical register `k` (R725, R726). -/
def Npx.tag (n : Npx) (k : Fin 8) : BitVec 2 := if n.empty.getLsbD k.val then 3 else tagOf n.regs[k]

/-- The tag word: register `k` in bits 2k+1:2k (R725, D42). -/
def Npx.tagWord (n : Npx) : Word :=
  n.tag 7 ++ n.tag 6 ++ n.tag 5 ++ n.tag 4 ++ n.tag 3 ++ n.tag 2 ++ n.tag 1 ++ n.tag 0

/-- Which registers a loaded tag word calls Empty (R726, D42). -/
def emptyOfTags (w : Word) : BitVec 8 :=
  let e (k : Nat) : BitVec 1 := BitVec.ofBool (w.getLsbD (2 * k) && w.getLsbD (2 * k + 1))
  e 7 ++ e 6 ++ e 5 ++ e 4 ++ e 3 ++ e 2 ++ e 1 ++ e 0

/-- Status bits that are held: neither B, ES nor bit 6 (R717, D38). -/
def heldStatus (w : Word) : Word := w &&& 0x7F3F

/-- FINIT: everything but registers, pointers, mode and C3 to C0 (R736, R865). -/
def Npx.initialized (n : Npx) : Npx :=
  { n with control := 0x03FF, status := n.status &&& 0x4700, empty := 0xFF, busy := false }

/-- Change the 80287. -/
def updateNpx (f : Npx → Npx) : Exec Unit := update fun s => { s with npx := f s.npx }

/-- Read something of the 80287. -/
def lookNpx {α : Type} (f : Npx → α) : Exec α := look fun s => f s.npx

/-! ## Numeric exceptions (R760, R761) -/

/-- The six numeric exceptions (R760). -/
inductive NumExn where
  | i | d | z | o | u | p
  deriving DecidableEq, Repr

/-- Its flag in the status word and its mask in the control word. -/
def NumExn.pos : NumExn → Nat
  | .i => 0 | .d => 1 | .z => 2 | .o => 3 | .u => 4 | .p => 5

/-- The exception is masked (R720). -/
def Npx.masks (n : Npx) (x : NumExn) : Bool := n.control.getLsbD x.pos

/-- Set the flag of an exception; ES and ERROR follow. The answer is whether it is masked (R760). -/
def signal (x : NumExn) : Exec Bool := do
  updateNpx fun n => { n with status := putBit n.status x.pos true }
  lookNpx (·.masks x)

/-- Set the precision flag if `b` (R766). -/
def signalInexact (b : Bool) : Exec Unit := if b then do let _ ← signal .p else pure ()

/-- Set the precision flag or not, by a free choice: for the results of the transcendental instructions (R848, D56), and for an
inexact FBSTP (log 30). -/
def signalApproximate : Exec Unit := do
  let b ← drawBit
  updateNpx fun n => { n with status := putBit n.status NumExn.p.pos (n.status.getLsbD NumExn.p.pos || b) }

/-- What the tests of the operands lead to. -/
inductive Verdict where
  /-- An unmasked exception ends the instruction (R761). -/
  | stopped (x : NumExn)
  /-- Masked invalid operation. -/
  | invalid
  /-- Masked zero divide. -/
  | zeroDivide
  | go
  deriving DecidableEq, Repr

/-- Precedence: unmasked D, I, Z, masked D (R763). `d`, `i`, `z`: the exceptions the operands call for. -/
def operandTests (d i z : Bool) : Exec Verdict := do
  let dMasked ← lookNpx (·.masks .d)
  if d && !dMasked then do
    let _ ← signal .d
    pure (.stopped .d)
  else if i then do
    if (← signal .i) then do
      if d then do let _ ← signal .d
      pure .invalid
    else pure (.stopped .i)
  else if z then do
    if (← signal .z) then do
      if d then do let _ ← signal .d
      pure .zeroDivide
    else pure (.stopped .z)
  else do
    if d then do let _ ← signal .d
    pure .go

/-- Change C3, C2 and C0; C1 keeps its value (R718). -/
def setCompareCodes (c3 c2 c0 : Bool) : Exec Unit :=
  updateNpx fun n => { n with status := putBit (putBit (putBit n.status 14 c3) 10 c2) 8 c0 }

/-- Change C1 (R718). -/
def setC1 (b : Bool) : Exec Unit := updateNpx fun n => { n with status := putBit n.status 9 b }

/-- Push a value, or, on a full stack, signal I and, masked, push real indefinite over the old content (R762). `fault`: the
source was Empty already (R805). -/
def pushOrFault (fault : Bool) (v : Temp) : Exec Unit := do
  let full ← lookNpx fun n => !n.isEmpty 7
  if fault || full then do
    if (← signal .i) then updateNpx (·.push indefinite)
  else updateNpx (·.push v)

/-! ## Exception pointers (R727, D43) -/

/-- The 11 opcode bits: the low three of the first byte, then the second byte (R712, R727). -/
def escOpcode (i : Instr) : BitVec 11 :=
  match encode i with
  | b :: m :: _ => (b.extractLsb' 0 3 ++ m : BitVec (3 + 8))
  | _ => 0

/-- A pointer in both representations: selector and offset, and selector times 16 plus offset modulo 2^20 (R727). -/
def NpxPointer.of (sel off : Word) : NpxPointer :=
  { sel := sel, off := off, real := (sel.setWidth 20 <<< 4) + off.setWidth 20 }

/-- The representation that a loaded environment left out is open (U23). -/
def NpxPointer.completed (p : NpxPointer) (form : PointerForm) (hi lo : Word) : NpxPointer :=
  match form with
  | .both => p
  | .real => { p with sel := hi, off := lo }
  | .prot => { p with real := (hi ++ lo : BitVec 32).setWidth 20 }

/-- Record the pointers of a numeric instruction: the address of its first byte, prefixes included, its opcode, and the address
of its memory operand if it has one (R727). -/
def recordPointers (i : Instr) (m : Option Mem) : Exec Unit := do
  let s ← look id
  let hi ← drawWord
  let lo ← drawWord
  let op :=
    match m with
    | some m => .of (s.seg (s.memSeg m)).sel (s.ea m)
    | none => s.npx.op.completed s.npx.form hi lo
  updateNpx fun n =>
    { n with ip := .of s.cs.sel s.istart, op := op, opcode := escOpcode i, form := .both }

/-! ## Operand transfers (R773) -/

/-- The state of the 80287 after a segment overrun: it stays busy, which only FNINIT or RESET ends, and its registers and status
are open until then (R924); the pointers and the mode keep their values (U16). -/
def overrun : Exec Unit := do
  let t0 ← drawTemp
  let t1 ← drawTemp
  let t2 ← drawTemp
  let t3 ← drawTemp
  let t4 ← drawTemp
  let t5 ← drawTemp
  let t6 ← drawTemp
  let t7 ← drawTemp
  let e ← drawByte
  let c ← drawWord
  let w ← drawWord
  update fun s => { s with mpPending := true }
  updateNpx fun n =>
    { n with regs := #v[t0, t1, t2, t3, t4, t5, t6, t7], empty := e, control := c, status := heldStatus w, busy := true }

/-- The word at an offset of an operand lies within the limit of the segment; later words are tested for this only (R773). -/
def State.transferable (s : State) (S : Sreg) (off : Nat) : Bool := (s.seg S).inLimit s.pe off 2

/-- Move `n` words from memory to the 80287, lowest first; `none` when a later word lies outside the segment. The first word
has been tested (R560). -/
def transferIn (S : Sreg) : Nat → Nat → Exec (Option (List Word))
  | 0, _ => pure (some [])
  | n + 1, off => do
    let s ← look id
    if s.transferable S off then do
      match (← transferIn S n (off + 2)) with
      | some ws => pure (some (s.readWord ((s.seg S).addr off) :: ws))
      | none => pure none
    else pure none

/-- Move words from the 80287 to memory, lowest first; words before one that lies outside the segment stay written. The answer
is whether all were moved. -/
def transferOut (S : Sreg) : List Word → Nat → Exec Bool
  | [], _ => pure true
  | w :: ws, off => do
    if (← look (·.transferable S off)) then do
      update fun s => s.writeWord ((s.seg S).addr off) w
      transferOut S ws (off + 2)
    else pure false

/-- Fetch an operand of `n` words and go on with its image; nothing more happens without an 80287, which raises no exception
(R560, R711). -/
def withOperand (m : Mem) (n : Nat) (k : Nat → Exec Unit) : Exec Unit := do
  let s ← look id
  match (← transferIn (s.memSeg m) n (s.ea m).toNat) with
  | none => if s.npxPresent then overrun else pure ()
  | some ws => if s.npxPresent then k (imageOf ws) else pure ()

/-- Store what `image` gives, `n` words, then go on with `k`; `none` when an unmasked exception has stopped the instruction.
An absent 80287 gives all ones and raises no exception (R560, R711). -/
def storeOperand (m : Mem) (n : Nat) (image : Exec (Option Nat)) (k : Exec Unit) : Exec Unit := do
  let s ← look id
  if s.npxPresent then do
    match (← image) with
    | none => pure ()
    | some img => do
      if (← transferOut (s.memSeg m) (wordsOf n img) (s.ea m).toNat) then k else overrun
  else do
    let _ ← transferOut (s.memSeg m) (List.replicate n 0xFFFF) (s.ea m).toNat
    pure ()

/-- What an instruction without a memory operand does inside the 80287. -/
def whenPresent (k : Exec Unit) : Exec Unit := do
  if (← look (·.npxPresent)) then k else pure ()

/-! ## Every ESC (R560, R712, R801) -/

/-- The memory operand of an ESC and whether it is written. -/
inductive EscOperand where
  | none
  | source (m : Mem)
  | target (m : Mem)
  deriving DecidableEq, Repr

/-- The memory operand. -/
def EscOperand.mem : EscOperand → Option Mem
  | .none => .none
  | .source m => some m
  | .target m => some m

/-- The test of the first word of the operand (R560). -/
def testEscOperand : EscOperand → Exec Unit
  | .none => pure ()
  | .source m => fun s => testRead (s.memSeg m) (s.ea m).toNat 2 s
  | .target m => fun s => testWrite (s.memSeg m) (s.ea m).toNat 2 s

/-- Which ESCs: numeric ones wait for BUSY, test ERROR and record the pointers; control ones wait and test; the no-wait group
does neither (R771, D43), but the 80287 delays two of them, FSTENV and FSAVE, until its activity is complete (R771, R872,
R874). -/
inductive EscKind where
  | numeric
  | waiting
  | noWait
  | delayed
  deriving DecidableEq, Repr

/-- The 80286 waits for BUSY and tests ERROR (R771). -/
def EscKind.synchronized (k : EscKind) : Bool := k == .numeric || k == .waiting

/-- An ESC: #NM with EM or TS; the wait for BUSY and the test of ERROR unless it is of the no-wait group; the test of the
operand's first word; then the 80287's part, which completes before the next instruction (R560, R712, R733). -/
def escape (i : Instr) (kind : EscKind) (operand : EscOperand) (body : Exec Unit) (s : State) : Result :=
  conclude (do
    require (!(s.em || s.ts)) .nm
    if kind.synchronized && s.npxBusy then pure (.again i)
    else do
      require (!kind.synchronized || !s.npxError) .mf
      testEscOperand operand
      if kind == .delayed && s.npxBusy then pure (.again i)
      else do
        if kind == .numeric && s.npxPresent then recordPointers i operand.mem
        body
        pure .done) s

/-- A numeric instruction on registers only. -/
def onRegisters (i : Instr) (body : Exec Unit) (s : State) : Result := escape i .numeric .none (whenPresent body) s

/-- A numeric instruction with a memory source of `n` words. -/
def fromMemory (i : Instr) (m : Mem) (n : Nat) (body : Nat → Exec Unit) (s : State) : Result :=
  escape i .numeric (.source m) (withOperand m n body) s

/-- A numeric instruction with a memory destination of `n` words. -/
def toMemory (i : Instr) (m : Mem) (n : Nat) (image : Exec (Option Nat)) (after : Exec Unit) (s : State) : Result :=
  escape i .numeric (.target m) (storeOperand m n image after) s

end Sys2Proof.Machine
end

