-- ==== Sys2Proof/Machine/NpxCore.lean ====
section
/-! DEFINITION. The shared cores of the numeric instructions: results in range, the four operations, comparison, conversion to
memory formats (spec/49_npx_instructions.md R801 to R804; spec/50_npx_exceptions_interface.md R750 to R766). -/

namespace Sys2Proof.Machine

/-! ## Operands -/

/-- An operand: its value, in the work area, and what has to be known of where it came from. -/
structure Operand where
  /-- The value; a denormal as the equivalent unnormal (R750). -/
  value : Temp
  denormal : Bool
  /-- The register is tagged Empty. -/
  empty : Bool
  /-- It comes from memory. -/
  memory : Bool
  deriving DecidableEq, Repr

/-- The operand in a register. -/
def Npx.operand (n : Npx) (i : BitVec 3) : Operand :=
  { value := workCopy (n.st i), denormal := classOf (n.st i) == .denormal, empty := n.isEmpty i, memory := false }

/-- The operand a short or long real is (R802). -/
def RealFormat.operand (f : RealFormat) (img : Nat) : Operand :=
  { value := f.widen img, denormal := f.isDenormal img, empty := false, memory := true }

/-- The operand an `n`-bit integer is (R802). -/
def integerOperand (n img : Nat) : Operand :=
  { value := integerTemp n img, denormal := false, empty := false, memory := true }

/-- An operand is a NaN. -/
def Operand.isNan (a : Operand) : Bool := classOf a.value == .nan

/-- An operand is infinite. -/
def Operand.isInf (a : Operand) : Bool := classOf a.value == .infinity

/-- True zero or pseudo zero. -/
def Operand.isZero (a : Operand) : Bool := classOf a.value == .zero || isPseudoZero a.value

/-- An unnormal, pseudo zeros included. -/
def Operand.isUnnormal (a : Operand) : Bool := classOf a.value == .unnormal

/-- The NaN delivered when one or both operands are NaNs: the one with the larger significand, the destination's when they are
equal (R758, D45). `a` is the destination. -/
def nanOf (a b : Operand) : Temp :=
  if a.isNan && (!b.isNan || decide (sigOf b.value ≤ sigOf a.value)) then a.value else b.value

/-- The masked response to an invalid operation on two operands: the NaN, or real indefinite (R762). -/
def invalidResult (a b : Operand) : Temp := if a.isNan || b.isNan then nanOf a b else indefinite

/-! ## Results for a register (R761, R764 to R766) -/

/-- A result whose exponent no longer fits, its exponent taken modulo 2^15: the unmasked response (D47). -/
def wrappedTemp (neg : Bool) (r : Rounded) : Temp := mkTemp neg ((r.top + 16383) % 32768).toNat r.sig

/-- The masked response to overflow: infinity or the largest exponent, with the largest significand, or for an unnormal its own
(R756, R764). -/
def overflowTemp (rc : Rounding) (neg : Bool) (k : Nat) (r : Rounded) : Temp :=
  if overflowsToInfinity rc neg then infinityOf neg
  else mkTemp neg 0x7FFE (if k = 0 then 2 ^ 64 - 1 else r.sig)

/-- Round a nonzero result to `p` bits, `k` of them leading zeros, and bring it into range: underflow on the exponent of the true
result (signalled only if `u`), overflow on that of the rounded one, precision (R764 to R766, D46). Where U is not signalled
(R817) the result below the normal range is denormalized as if U were masked: the model's choice (log 64). -/
def deliverTemp (u : Bool) (p k : Nat) (v : Value) : Exec Temp := do
  let rc := roundingOf (← lookNpx (·.control))
  let r := v.rounded rc p k
  if v.top + k < -16382 then do
    let masked ← if u then signal .u else pure true
    if masked then do
      let (q, inexact) := v.roundAt rc (-16445)
      signalInexact inexact
      pure (mkTemp v.neg 0 q)
    else pure (wrappedTemp v.neg r)
  else if 16383 < r.top then do
    if (← signal .o) then do
      signalInexact true
      pure (overflowTemp rc v.neg k r)
    else pure (wrappedTemp v.neg r)
  else do
    signalInexact r.inexact
    pure (mkTemp v.neg (r.top + 16383).toNat r.sig)

/-- A pseudo zero; its exponent is open (R751, U15). -/
def drawPseudoZero (neg : Bool) : Exec Temp := do
  let e ← drawNat 0x7FFD
  pure (mkTemp neg (1 + e) 0)

/-- The number of leading zero bits of an unnormal result of precision `p`: open, at least one (U15). -/
def drawLeadingZeros (p : Nat) : Exec Nat := do
  let k ← drawNat (p - 2)
  pure (1 + k)

/-- A finite result, normalized or unnormal as Table 1-9 says (R751). -/
def deliverFinite (u unnormal : Bool) (v : Value) : Exec Temp := do
  let p := precisionOf (← lookNpx (·.control))
  if v.mant = 0 then (if unnormal then drawPseudoZero v.neg else pure (zeroOf v.neg))
  else if unnormal then do
    let k ← drawLeadingZeros p
    deliverTemp u p k v
  else deliverTemp u p 0 v

/-! ## The four operations (R803) -/

/-- Add, subtract, multiply, divide. -/
inductive ArithOp where
  | add | sub | mul | div
  deriving DecidableEq, Repr

/-- The combinations that are invalid whatever their value: infinities by closure, 0 times infinity, 0 by 0, a divisor that is
denormal or unnormal (R762, R803). -/
def ArithOp.invalid (op : ArithOp) (affine : Bool) (a b : Operand) : Bool :=
  match op with
  | .add => a.isInf && b.isInf && (!affine || signOf a.value != signOf b.value)
  | .sub => a.isInf && b.isInf && (!affine || signOf a.value == signOf b.value)
  | .mul => (a.isInf && b.isZero) || (a.isZero && b.isInf)
  | .div => (a.isInf && b.isInf) || (a.isZero && b.isZero) || b.denormal || b.isUnnormal

/-- A denormal operand that signals D: a denormal divisor is invalid instead (R750, R803). With both denormal the dividend
signals D, unmasked before I: the model's choice (log 63). -/
def ArithOp.denormal (op : ArithOp) (a b : Operand) : Bool := a.denormal || (b.denormal && op != .div)

/-- Zero divide: a finite nonzero number by true zero (R768). -/
def ArithOp.zeroDivide (op : ArithOp) (a b : Operand) : Bool :=
  op == .div && classOf b.value == .zero && isFinite a.value && !a.isZero

/-- The results that are an infinity or a true zero whatever the other operand's value is (R752, R757). A true zero times an
unnormal or a pseudo zero is a true zero: the model's choice (log 69). -/
def ArithOp.special (op : ArithOp) (a b : Operand) : Option Temp :=
  let xor := signOf a.value != signOf b.value
  match op with
  | .add => if a.isInf then some a.value else if b.isInf then some b.value else none
  | .sub => if a.isInf then some a.value else if b.isInf then some (negated b.value) else none
  | .mul =>
    if a.isInf || b.isInf then some (infinityOf xor)
    else if classOf a.value = .zero || classOf b.value = .zero then some (zeroOf xor)
    else none
  | .div =>
    if a.isInf then some (infinityOf xor)
    else if b.isInf || classOf a.value = .zero then some (zeroOf xor)
    else none

/-- Whether a sum is unnormal: the operand of larger magnitude decides; of equal magnitudes, an operand that is not true zero,
and with one normal and one unnormal it is open (R751, U15). Of two unnormals whose sum is zero Table 1-9 makes the result
unnormal and Table 1-10 (R752) a zero. DESIGN CHOICE: a pseudo zero, its exponent open (log 38). -/
def sumUnnormal (a b : Operand) : Exec Bool :=
  let x := valueOf a.value
  let y := valueOf b.value
  if y.absLt x then pure a.isUnnormal
  else if x.absLt y then pure b.isUnnormal
  else if classOf a.value = .zero then pure b.isUnnormal
  else if classOf b.value = .zero then pure a.isUnnormal
  else if a.isUnnormal = b.isUnnormal then pure a.isUnnormal
  else drawBit

/-- The leading zero bits of a significand. -/
def leadingZeros (t : Temp) : Nat := 64 - bitLength (sigOf t)

/-- The finite case of each operation (R803). -/
def ArithOp.finite (op : ArithOp) (u : Bool) (a b : Operand) : Exec Temp := do
  let down := roundingOf (← lookNpx (·.control)) == .down
  let x := valueOf a.value
  let y := valueOf b.value
  match op with
  | .add => deliverFinite u (← sumUnnormal a b) (x.add y down)
  | .sub => deliverFinite u (← sumUnnormal a b) (x.add { y with neg := !y.neg } down)
  | .mul =>
    let v := x.mul y
    if (a.isUnnormal && b.isUnnormal) && decide (64 < leadingZeros a.value + leadingZeros b.value) then do
      signalInexact (v.mant != 0)
      drawPseudoZero v.neg
    else deliverFinite u (a.isUnnormal || b.isUnnormal) v
  | .div => deliverFinite u a.isUnnormal (x.div y)

/-- `Arith(op, d, s)` with `d` the destination; reversed forms compute `s op d`. `none`: an unmasked exception has stopped the
instruction before anything is written (R803). `u`: the form can signal underflow. -/
def arith (op : ArithOp) (reversed u : Bool) (d s : Operand) : Exec (Option Temp) := do
  let a := if reversed then s else d
  let b := if reversed then d else s
  if d.empty || s.empty then do
    if (← signal .i) then pure (some indefinite) else pure none
  else do
    let affine := affineOf (← lookNpx (·.control))
    let invalid := a.isNan || b.isNan || op.invalid affine a b
    match (← operandTests (op.denormal a b) invalid (op.zeroDivide a b)) with
    | .stopped _ => pure none
    | .invalid => pure (some (invalidResult d s))
    | .zeroDivide => pure (some (infinityOf (signOf a.value != signOf b.value)))
    | .go =>
      match op.special a b with
      | some t => pure (some t)
      | none => do
        let t ← op.finite u a b
        pure (some t)

/-- Write the result to `ST(i)`, then pop if the instruction pops; nothing after an unmasked exception. -/
def writeResult (i : BitVec 3) (pops : Bool) : Option Temp → Exec Unit
  | none => pure ()
  | some t => updateNpx fun n => if pops then (n.setSt i t).pop else n.setSt i t

/-- `ST(i) <- ST(i) op ST(j)`, or reversed (R814). -/
def arithRegisters (op : ArithOp) (reversed pops : Bool) (i j : BitVec 3) : Exec Unit := do
  let n ← lookNpx id
  let r ← arith op reversed true (n.operand i) (n.operand j)
  writeResult i pops r

/-- `ST <- ST op source`, or reversed (R814). -/
def arithSource (op : ArithOp) (reversed u : Bool) (s : Operand) : Exec Unit := do
  let n ← lookNpx id
  let r ← arith op reversed u (n.operand 0) s
  writeResult 0 false r

/-- The four operand forms of a basic operation (R814). -/
def arithForm (i : Instr) (op : ArithOp) (reversed : Bool) (f : ArithForm) (s : State) : Result :=
  match f with
  | .m32 m => fromMemory i m 2 (fun img => arithSource op reversed true (shortReal.operand img)) s
  | .m64 m => fromMemory i m 4 (fun img => arithSource op reversed true (longReal.operand img)) s
  | .stSti j => onRegisters i (arithRegisters op reversed false 0 j) s
  | .stiSt j => onRegisters i (arithRegisters op reversed false j 0) s

/-- The register-pop form: `ST(i) <- ST(i) op ST`, or reversed, then pop (R814). -/
def arithPop (i : Instr) (op : ArithOp) (reversed : Bool) (j : BitVec 3) (s : State) : Result :=
  onRegisters i (arithRegisters op reversed true j 0) s

/-- The integer-memory forms; only those of division signal underflow (R814, R817). -/
def arithInteger (i : Instr) (op : ArithOp) (reversed : Bool) (f : IntForm) (s : State) : Result :=
  match f with
  | .m16 m => fromMemory i m 1 (fun img => arithSource op reversed (op == .div) (integerOperand 16 img)) s
  | .m32 m => fromMemory i m 2 (fun img => arithSource op reversed (op == .div) (integerOperand 32 img)) s

/-! ## Comparison (R804) -/

/-- D in a comparison: a denormal, or an unnormal other than a pseudo zero (R768, R804). -/
def Operand.compareDenormal (a : Operand) : Bool := a.denormal || (a.isUnnormal && !isPseudoZero a.value)

/-- The order of two operands neither of which is a NaN: C3 and C0. Infinities have been tested; in projective closure two
infinities are equal (R757, R804). -/
def comparison (affine : Bool) (a b : Temp) : Bool × Bool :=
  if !affine && classOf a == .infinity && classOf b == .infinity then (true, false)
  else if classOf a = .infinity ∨ classOf b = .infinity then
    let rank (t : Temp) : Int := if classOf t = .infinity then (if signOf t then -1 else 1) else 0
    if rank a = rank b then (true, false) else (false, decide (rank a < rank b))
  else if (valueOf a).lt (valueOf b) then (false, true)
  else if (valueOf b).lt (valueOf a) then (false, false)
  else (true, false)

/-- `Compare(a, b)`: the answer is whether the instruction goes on to its pops (R804, R763, D53). -/
def compareReals (a b : Operand) : Exec Bool := do
  if a.empty || b.empty then do
    let masked ← signal .i
    let d := b.memory && b.denormal
    let dMasked ← if d then signal .d else pure true
    setCompareCodes true true true
    pure (masked && dMasked)
  else do
    let affine := affineOf (← lookNpx (·.control))
    let invalid := a.isNan || b.isNan || (!affine && a.isInf != b.isInf)
    match (← operandTests (a.compareDenormal || b.compareDenormal) invalid false) with
    | .stopped .i => do
      setCompareCodes true true true
      pure false
    | .stopped _ => pure false
    | .invalid => do
      setCompareCodes true true true
      pure true
    | _ => do
      let (c3, c0) := comparison affine a.value b.value
      setCompareCodes c3 false c0
      pure true

/-- Pop `k` times. -/
def Npx.pops (n : Npx) : Nat → Npx
  | 0 => n
  | k + 1 => n.pop.pops k

/-- Compare ST with an operand, then pop `k` times unless an unmasked exception occurred. -/
def compareWith (k : Nat) (b : Npx → Operand) : Exec Unit := do
  let n ← lookNpx id
  if (← compareReals (n.operand 0) (b n)) then updateNpx (·.pops k)

/-- The operand forms of FCOM and FCOMP (R840, R841). -/
def compareForm (i : Instr) (k : Nat) (f : RealForm) (s : State) : Result :=
  match f with
  | .m32 m => fromMemory i m 2 (fun img => compareWith k fun _ => shortReal.operand img) s
  | .m64 m => fromMemory i m 4 (fun img => compareWith k fun _ => longReal.operand img) s
  | .st j => onRegisters i (compareWith k fun n => n.operand j) s

/-- The operand forms of FICOM and FICOMP (R843, R844). -/
def compareInteger (i : Instr) (k : Nat) (f : IntForm) (s : State) : Result :=
  match f with
  | .m16 m => fromMemory i m 1 (fun img => compareWith k fun _ => integerOperand 16 img) s
  | .m32 m => fromMemory i m 2 (fun img => compareWith k fun _ => integerOperand 32 img) s

/-! ## Stores (R746, R747) -/

/-- The masked response to I of a store, or the stop (R761). -/
def storeInvalid (img : Nat) : Exec (Option Nat) := do
  if (← signal .i) then pure (some img) else pure none

/-- The masked response to underflow of a store: denormalize and round at the format's smallest step (R765). -/
def narrowUnderflow (f : RealFormat) (rc : Rounding) (v : Value) : Exec (Option Nat) := do
  if (← signal .u) then do
    let (q, inexact) := v.roundAt rc (1 - (f.bias : Int) - f.frac)
    signalInexact inexact
    pure (some (f.image v.neg 0 q))
  else pure none

/-- A nonzero normal value as a short or long real (R746, R764, R765). -/
def narrowNormal (f : RealFormat) (v : Value) : Exec (Option Nat) := do
  let rc := roundingOf (← lookNpx (·.control))
  if v.top < 1 - (f.bias : Int) then narrowUnderflow f rc v
  else do
    let (q, inexact) := v.roundAt rc (v.top - f.frac)
    let top := if q = 2 ^ (f.frac + 1) then v.top + 1 else v.top
    if (f.bias : Int) < top then do
      if (← signal .o) then do
        signalInexact true
        pure (some (if overflowsToInfinity rc v.neg then f.infinity v.neg else f.largest v.neg))
      else pure none
    else do
      signalInexact inexact
      pure (some (f.image v.neg (v.top + f.bias).toNat (q - 2 ^ f.frac)))

/-- The image that FST and FSTP store for a register (R746); `none` when an unmasked exception stops the store. -/
def narrow (f : RealFormat) (empty : Bool) (t : Temp) : Exec (Option Nat) := do
  if empty then storeInvalid f.indefinite
  else
    match classOf t with
    | .zero => pure (some (f.image (signOf t) 0 0))
    | .infinity => pure (some (f.infinity (signOf t)))
    | .nan => pure (some (f.image (signOf t) (2 ^ f.ebits - 1) (f.chopped t)))
    | .denormal => pure (some (f.image (signOf t) 0 (f.chopped t)))
    | .normal => narrowNormal f (valueOf t)
    | .unnormal => do
      let v := valueOf t
      if v.mant = 0 ∨ v.top < 1 - (f.bias : Int) then
        narrowUnderflow f (roundingOf (← lookNpx (·.control))) v
      else storeInvalid f.indefinite

/-- A register that FIST, FISTP and FBSTP can store: a normal number or a true zero (R747). -/
def storableInteger (t : Temp) : Bool := classOf t == .zero || classOf t == .normal

/-- The `n`-bit two's complement image that FIST and FISTP store (R747). -/
def integerImage (n : Nat) (empty : Bool) (t : Temp) : Exec (Option Nat) := do
  let rc := roundingOf (← lookNpx (·.control))
  let v := valueOf t
  let (q, inexact) := v.roundAt rc 0
  let fits := if v.neg then decide (q ≤ 2 ^ (n - 1)) else decide (q < 2 ^ (n - 1))
  if empty || !storableInteger t || !fits then storeInvalid (2 ^ (n - 1))
  else do
    signalInexact inexact
    pure (some (if v.neg then (2 ^ n - q) % 2 ^ n else q))

/-- The magnitude rounded half away from zero, and whether it was inexact (R747, D54). -/
def Value.halfAway (v : Value) : Nat × Bool :=
  if 0 ≤ v.exp then (v.mant * 2 ^ v.exp.toNat, false)
  else
    let k := (-v.exp).toNat
    ((v.mant + 2 ^ (k - 1)) / 2 ^ k, v.mant % 2 ^ k != 0)

/-- The image that FBSTP stores. Of a value that is not an integer R747 sets the precision flag and R813 does not: it is set or not
by a free choice (log 30). A negative value that rounds to zero keeps its sign: the model's choice (log 68). -/
def packedStore (empty : Bool) (t : Temp) : Exec (Option Nat) := do
  let v := valueOf t
  let (q, inexact) := v.halfAway
  if empty || !storableInteger t || decide (10 ^ 18 ≤ q) then storeInvalid packedIndefinite
  else do
    if inexact then signalApproximate
    pure (some (packedImage v.neg q))

end Sys2Proof.Machine
end

