-- ==== Sys2Proof/Machine/NpxArith.lean ====
section
/-! DEFINITION. The 80287's arithmetic and transcendental instructions (spec/49_npx_instructions.md R814 to R839, R848 to
R853). -/

namespace Sys2Proof.Machine

/-! ## The basic operations (R814 to R832) -/

/-- FADD (R815). -/
def execFadd (f : ArithForm) (s : State) : Result := arithForm (.fadd f) .add false f s

/-- FADDP (R816). -/
def execFaddp (i : BitVec 3) (s : State) : Result := arithPop (.faddp i) .add false i s

/-- FIADD (R817). -/
def execFiadd (f : IntForm) (s : State) : Result := arithInteger (.fiadd f) .add false f s

/-- FMUL (R824). -/
def execFmul (f : ArithForm) (s : State) : Result := arithForm (.fmul f) .mul false f s

/-- FMULP (R825). -/
def execFmulp (i : BitVec 3) (s : State) : Result := arithPop (.fmulp i) .mul false i s

/-- FIMUL (R826). -/
def execFimul (f : IntForm) (s : State) : Result := arithInteger (.fimul f) .mul false f s

/-- FSUB (R818). -/
def execFsub (f : ArithForm) (s : State) : Result := arithForm (.fsub f) .sub false f s

/-- FSUBP (R819). -/
def execFsubp (i : BitVec 3) (s : State) : Result := arithPop (.fsubp i) .sub false i s

/-- FISUB (R820). -/
def execFisub (f : IntForm) (s : State) : Result := arithInteger (.fisub f) .sub false f s

/-- FSUBR (R821). -/
def execFsubr (f : ArithForm) (s : State) : Result := arithForm (.fsubr f) .sub true f s

/-- FSUBRP (R822). -/
def execFsubrp (i : BitVec 3) (s : State) : Result := arithPop (.fsubrp i) .sub true i s

/-- FISUBR (R823). -/
def execFisubr (f : IntForm) (s : State) : Result := arithInteger (.fisubr f) .sub true f s

/-- FDIV (R827). -/
def execFdiv (f : ArithForm) (s : State) : Result := arithForm (.fdiv f) .div false f s

/-- FDIVP (R828). -/
def execFdivp (i : BitVec 3) (s : State) : Result := arithPop (.fdivp i) .div false i s

/-- FIDIV (R829). -/
def execFidiv (f : IntForm) (s : State) : Result := arithInteger (.fidiv f) .div false f s

/-- FDIVR (R830). -/
def execFdivr (f : ArithForm) (s : State) : Result := arithForm (.fdivr f) .div true f s

/-- FDIVRP (R831). -/
def execFdivrp (i : BitVec 3) (s : State) : Result := arithPop (.fdivrp i) .div true i s

/-- FIDIVR (R832). -/
def execFidivr (f : IntForm) (s : State) : Result := arithInteger (.fidivr f) .div true f s

/-! ## Square root, scaling, remainder, rounding, extraction, sign (R833 to R839) -/

/-- FSQRT of a register that is not Empty (R833). -/
def squareRoot (a : Operand) : Exec (Option Temp) := do
  let control ← lookNpx (·.control)
  let t := a.value
  let invalid := a.isNan || a.denormal || a.isUnnormal || (a.isInf && (!affineOf control || signOf t))
    || (signOf t && classOf t == .normal)
  match (← operandTests a.denormal invalid false) with
  | .stopped _ => pure none
  | .invalid => pure (some (invalidResult a a))
  | _ =>
    if classOf t = .normal then do
      let r := (valueOf t).sqrt.rounded (roundingOf control) (precisionOf control) 0
      signalInexact r.inexact
      pure (some (mkTemp false (r.top + 16383).toNat r.sig))
    else pure (some t)

/-- An instruction that replaces ST by what it computes from it; Empty signals I (R762). -/
def onTop (k : Operand → Exec (Option Temp)) : Exec Unit := do
  let n ← lookNpx id
  let r ←
    if n.isEmpty 0 then do
      if (← signal .i) then pure (some indefinite) else pure none
    else k (n.operand 0)
  writeResult 0 false r

/-- FSQRT (R833). -/
def execFsqrt (s : State) : Result := onRegisters .fsqrt (onTop squareRoot) s

/-- The scale factor of FSCALE: ST(1) chopped toward zero; `none` where the result is undefined: out of the range
[-2^15, 2^15), or strictly between -1 and 1 but not zero (R834, U17). -/
def scaleFactor (t : Temp) : Option Int :=
  let v := valueOf t
  let (q, inexact) := v.roundAt .chop 0
  if q = 0 then (if inexact then none else some 0)
  else if v.neg then (if decide (q < 32768) || (q == 32768 && !inexact) then some (-(q : Int)) else none)
  else if q < 32768 then some q
  else none

/-- ST with `n` added to its exponent, significand unchanged (R834, D50). -/
def scaled (t : Temp) (n : Int) : Exec (Option Temp) := do
  let e : Int := (expOf (workCopy t) : Nat) + n
  let neg := signOf t
  let m := sigOf t
  let rc := roundingOf (← lookNpx (·.control))
  let r : Rounded := { sig := m, top := e - 16383, inexact := false }
  if e < 1 then do
    if (← signal .u) then do
      let (q, _) := ({ neg := neg, mant := m, exp := e - 16446 } : Value).roundAt rc (-16445)
      pure (some (mkTemp neg 0 q))
    else pure (some (wrappedTemp neg r))
  else if 0x7FFE < e then do
    if (← signal .o) then do
      signalInexact true
      pure (some (overflowTemp rc neg (if 2 ^ 63 ≤ m then 0 else 1) r))
    else pure (some (wrappedTemp neg r))
  else pure (some (mkTemp neg e.toNat m))

/-- FSCALE of registers that are not Empty (R834, R757). -/
def scale (a b : Operand) (t : Temp) : Exec (Option Temp) := do
  let zero := classOf t == .zero
  if a.isNan || b.isNan || (b.isInf && !zero) then do
    if (← signal .i) then pure (some (invalidResult a b)) else pure none
  else if a.isInf || b.isInf then pure (some t)
  else
    match scaleFactor b.value with
    | none => do
      let v ← drawTemp
      pure (some v)
    | some n => if zero || n == 0 then pure (some t) else scaled t n

/-- FSCALE (R834). -/
def execFscale (s : State) : Result :=
  onRegisters .fscale (do
    let n ← lookNpx id
    let r ←
      if n.isEmpty 0 || n.isEmpty 1 then do
        if (← signal .i) then pure (some indefinite) else pure none
      else scale (n.operand 0) (n.operand 1) (n.st 0)
    writeResult 0 false r) s

/-- C2 and the quotient bits after a complete reduction by the quotient `q`; for small quotients the higher bits take what the
lower ones held (R835). -/
def quotientCodes (q : Nat) : Exec Unit := do
  let old ← lookNpx (·.status)
  let c3 := if q < 2 then old.getLsbD 9 else q.testBit 1
  let c0 := if q < 4 then old.getLsbD 14 else q.testBit 2
  setCompareCodes c3 false c0
  setC1 (q.testBit 0)

/-- The partial remainders that one incomplete reduction of `x` by `y` may leave, `e` being the difference of their exponents:
congruent to `x` modulo `y`, at least `y` and below `x`, at most 64 bits of exponent below `x`, and of at most 64 significant
bits (R835, U18). -/
def partialRemainders (x y e : Nat) : List Nat :=
  ((List.range 63).flatMap fun i =>
    let d := y * 2 ^ (e - 1 - i)
    [x % d, x % d + d]).filter fun c =>
      decide (y ≤ c) && decide (c < x) && decide (bitLength x - bitLength c ≤ 64) && c % 2 ^ (bitLength c - 64) == 0

/-- The finite case of FPREM: a nonzero dividend and a normal divisor. Where no partial remainder fits a register the exponent is
reduced by 63 bits, and if that leaves less than the divisor the function is complete (R835, log 37). -/
def reduce (a b : Value) : Exec Temp := do
  let e := a.top - b.top
  let (x, y, g) := a.aligned b
  let complete (r : Nat) : Exec Temp := do
    quotientCodes (x / y)
    if r = 0 then pure (zeroOf a.neg) else deliverTemp true 64 0 { neg := a.neg, mant := r, exp := g }
  if e < 64 then complete (x % y)
  else do
    let choices := partialRemainders x y e.toNat
    let k ← drawNat (choices.length - 1)
    let r := choices.getD k (x % (y * 2 ^ (e.toNat - 63)))
    if r < y then complete r
    else do
      let c3 ← drawBit
      let c1 ← drawBit
      let c0 ← drawBit
      setCompareCodes c3 true c0
      setC1 c1
      deliverTemp true 64 0 { neg := a.neg, mant := r, exp := g }

/-- The masked response of FPREM to an invalid operation: C2 is cleared, "complete remainder", and the value goes to ST (R762,
R835). -/
def remainderInvalid (v : Temp) : Exec (Option Temp) := do
  updateNpx fun n => { n with status := putBit n.status 10 false }
  pure (some v)

/-- FPREM of registers that are not Empty; `t` is ST as it stands. A masked I gives real indefinite, but for a NaN operand, where
R758 and R762 say the NaN and R835 says real indefinite, one of the two by a free choice (log 72); a denormal dividend with a
denormal divisor signals D, as in a division (R835, log 63). -/
def remainder (a b : Operand) (t : Temp) : Exec (Option Temp) := do
  let invalid := a.isNan || b.isNan || a.isInf || b.isZero || b.denormal || b.isUnnormal
  match (← operandTests a.denormal invalid false) with
  | .stopped _ => pure none
  | .invalid => do
    let ofFprem ← drawBit
    remainderInvalid (if ofFprem then indefinite else invalidResult a b)
  | _ =>
    if b.isInf || classOf t == .zero then do
      setCompareCodes false false false
      setC1 false
      pure (some t)
    else if a.isZero then do
      quotientCodes 0
      pure (some (zeroOf (signOf t)))
    else do
      let r ← reduce (valueOf a.value) (valueOf b.value)
      pure (some r)

/-- FPREM (R835). -/
def execFprem (s : State) : Result :=
  onRegisters .fprem (do
    let n ← lookNpx id
    let r ←
      if n.isEmpty 0 || n.isEmpty 1 then do
        if (← signal .i) then remainderInvalid indefinite else pure none
      else remainder (n.operand 0) (n.operand 1) (n.st 0)
    writeResult 0 false r) s

/-- FRNDINT of a register that is not Empty (R836, D51). -/
def roundInteger (a : Operand) : Exec (Option Temp) := do
  let t := a.value
  if a.isNan then do
    if (← signal .i) then pure (some t) else pure none
  else if a.isInf then pure (some t)
  else do
    let rc := roundingOf (← lookNpx (·.control))
    let v := valueOf t
    if 0 ≤ v.exp then pure (some (exactTemp v))
    else do
      let (q, inexact) := v.roundAt rc 0
      signalInexact inexact
      pure (some (exactTemp { neg := v.neg, mant := q, exp := 0 }))

/-- FRNDINT (R836). -/
def execFrndint (s : State) : Result := onRegisters .frndint (onTop roundInteger) s

/-- The exponent and the significand of a finite number as two temporary reals (R837). -/
def extracted (t : Temp) : Temp × Temp :=
  if classOf t = .zero then (t, t)
  else
    let e : Int := (max (expOf t) 1 : Nat) - 16383
    let x : Temp := if e < 0 then exactTemp { neg := true, mant := (-e).toNat, exp := 0 }
      else exactTemp { neg := false, mant := e.toNat, exp := 0 }
    (x, mkTemp (signOf t) 0x3FFF (sigOf t))

/-- FXTRACT: the exponent replaces ST, the significand is pushed; masked I gives real indefinite twice (R837, D55). -/
def execFxtract (s : State) : Result :=
  onRegisters .fxtract (do
    let n ← lookNpx id
    let t := n.st 0
    if n.isEmpty 0 || !n.isEmpty 7 || !isFinite t then do
      if (← signal .i) then updateNpx fun k => (k.setSt 0 indefinite).push indefinite
    else
      let (x, m) := extracted t
      updateNpx fun k => (k.setSt 0 x).push m) s

/-- Change the sign of ST without looking at its class; Empty signals I (R838, R839, D52). -/
def onSign (k : Temp → Temp) : Exec Unit := do
  let n ← lookNpx id
  if n.isEmpty 0 then do
    if (← signal .i) then updateNpx (·.setSt 0 indefinite)
  else updateNpx (·.setSt 0 (k (n.st 0)))

/-- FABS (R838). -/
def execFabs (s : State) : Result := onRegisters .fabs (onSign fun t => t &&& ~~~(1#80 <<< 79)) s

/-- FCHS (R839). -/
def execFchs (s : State) : Result := onRegisters .fchs (onSign negated) s

/-! ## Transcendental instructions (R848 to R853, U20, D56) -/

/-- A valid operand: a normal number or a true zero (R848). -/
def transcendental (t : Temp) : Bool := classOf t == .normal || classOf t == .zero

/-- The value of a valid operand is at least zero. -/
def nonNegative (t : Temp) : Bool := !signOf t || classOf t == .zero

/-- pi / 4 as the sources print it (R744). -/
def quarterPi : Temp := 0x3FFEC90FDAA22168C235

/-- The largest temporary real below 1 - sqrt 2 / 2, the bound of FYL2XP1 (R853). -/
def yl2xp1Bound : Temp := 0x3FFD95F619980C4336F7

/-- What FPATAN and F2XM1, which can underflow, deliver for the nonzero true result that `z` approximates: U if `z` is denormal or
zero, and then, unmasked, the unmasked response `wrapped` with no test of P (R765, R763, D47, D56). -/
def deliverSmall (z wrapped : Temp) : Exec Temp := do
  if classOf z == .denormal || classOf z == .zero then do
    if (← signal .u) then do
      signalApproximate
      pure z
    else pure wrapped
  else do
    signalApproximate
    pure z

/-- Empty sources or a full stack are invalid even here (R848). -/
def unlessFault (fault : Bool) (masked : Npx → Npx) (k : Exec Unit) : Exec Unit := do
  if fault then do
    if (← signal .i) then updateNpx masked
  else k

/-- FPTAN (R849). -/
def execFptan (s : State) : Result :=
  onRegisters .fptan (do
    let n ← lookNpx id
    let t := n.st 0
    unlessFault (n.isEmpty 0 || !n.isEmpty 7) (fun k => (k.setSt 0 indefinite).push indefinite) (do
      if transcendental t && nonNegative t && !(valueOf quarterPi).lt (valueOf t) then do
        let (y, x) := Config.fptan t
        signalApproximate
        updateNpx fun k => (k.setSt 0 y).push x
      else do
        let y ← drawTemp
        let x ← drawTemp
        updateNpx fun k => (k.setSt 0 y).push x)) s

/-- A function of Y = ST(1) and X = ST: the result replaces Y, then ST is popped (R850, R852, R853). -/
def onPair (inRange : Temp → Temp → Bool) (f : Temp → Temp → Exec Temp) : Exec Unit := do
  let n ← lookNpx id
  let y := n.st 1
  let x := n.st 0
  unlessFault (n.isEmpty 0 || n.isEmpty 1) (fun k => (k.setSt 1 indefinite).pop) (do
    let z ← if transcendental y && transcendental x && inRange y x then f y x else drawTemp
    updateNpx fun k => (k.setSt 1 z).pop)

/-- A result that cannot underflow (R852, R853; of F2XM1 that of a zero). -/
def approximate (z : Temp) : Exec Temp := do
  signalApproximate
  pure z

/-- FPATAN: 0 < Y < X (R850, C60). -/
def execFpatan (s : State) : Result :=
  onRegisters .fpatan
    (onPair (fun y x => classOf y == .normal && !signOf y && (valueOf y).lt (valueOf x))
      fun y x => deliverSmall (Config.fpatan y x) (Config.fpatanUnmasked y x)) s

/-- `Transc.F2XM1` of a zero: that zero, as Table 1-10 has it (R752), or what the function gives, whose exactness nothing may assume
(R848, D56). Which of them is a parameter (log 73). -/
def f2xm1OfZero (x : Temp) : Temp := if Config.f2xm1KeepsZero then x else Config.f2xm1 x

/-- F2XM1: 0 <= X <= 1/2 (R851). -/
def execF2xm1 (s : State) : Result :=
  onRegisters .f2xm1 (do
    let n ← lookNpx id
    let x := n.st 0
    unlessFault (n.isEmpty 0) (·.setSt 0 indefinite) (do
      let z ←
        if classOf x == .zero then approximate (f2xm1OfZero x)
        else if transcendental x && nonNegative x && !(valueOf 0x3FFE8000000000000000).lt (valueOf x) then
          deliverSmall (Config.f2xm1 x) (Config.f2xm1Unmasked x)
        else drawTemp
      updateNpx (·.setSt 0 z))) s

/-- FYL2X: X > 0 (R852). -/
def execFyl2x (s : State) : Result :=
  onRegisters .fyl2x
    (onPair (fun _ x => !signOf x && classOf x == .normal) fun y x => approximate (Config.fyl2x y x)) s

/-- FYL2XP1: |X| < 1 - sqrt 2 / 2 (R853). -/
def execFyl2xp1 (s : State) : Result :=
  onRegisters .fyl2xp1
    (onPair (fun _ x => !(valueOf yl2xp1Bound).absLt (valueOf x)) fun y x => approximate (Config.fyl2xp1 y x)) s

end Sys2Proof.Machine
end

