-- ==== Sys2Proof/Machine/NpxControl.lean ====
section
/-! DEFINITION. The 80287's processor control instructions and the encodings no instruction has
(spec/49_npx_instructions.md R864 to R886; spec/48_npx_state_and_data.md R728 to R730). -/

namespace Sys2Proof.Machine

/-! ## Images (R728 to R730) -/

/-- The four pointer words of the environment in the format of the current mode; a representation that a loaded environment
left out is open (R728, U23). -/
def pointerWords (n : Npx) (a b c d : Word) : List Word :=
  let ip := n.ip.completed n.form a b
  let op := n.op.completed n.form c d
  if n.pm then [ip.off, ip.sel, op.off, op.sel]
  else
    [ip.real.setWidth 16, ((ip.real >>> 16).setWidth 16 <<< 12) ||| n.opcode.setWidth 16,
      op.real.setWidth 16, (op.real >>> 16).setWidth 16 <<< 12]

/-- The seven words of the environment (R728). -/
def environment : Exec (List Word) := do
  let n ← lookNpx id
  let a ← drawWord
  let b ← drawWord
  let c ← drawWord
  let d ← drawWord
  pure ([n.control, n.statusWord, n.tagWord] ++ pointerWords n a b c d)

/-- The eight registers in stack order, five words each (R730). -/
def Npx.registerWords (n : Npx) : List Word :=
  ([0, 1, 2, 3, 4, 5, 6, 7] : List (BitVec 3)).flatMap fun i => wordsOf 5 (n.st i).toNat

/-- The word `k` of an image. -/
def imageWord (img k : Nat) : Word := BitVec.ofNat 16 (img / 65536 ^ k)

/-- The pointer a real-address image holds in the words `k` and `k + 1` (R728). -/
def realPointer (img k : Nat) : BitVec 20 :=
  (imageWord img k).setWidth 20 ||| (((imageWord img (k + 1)).setWidth 20 >>> 12) <<< 16)

/-- The environment of an image, in the format of the current mode; `code` stands for the opcode, which a protected-mode image
does not hold (R728, R873, D38, D42, U23). -/
def Npx.withEnvironment (n : Npx) (img : Nat) (code : Word) : Npx :=
  let m := { n with
    control := imageWord img 0
    status := heldStatus (imageWord img 1)
    empty := emptyOfTags (imageWord img 2) }
  if n.pm then
    { m with
      ip := { n.ip with off := imageWord img 3, sel := imageWord img 4 }
      op := { n.op with off := imageWord img 5, sel := imageWord img 6 }
      opcode := code.setWidth 11
      form := .prot }
  else
    { m with
      ip := { n.ip with real := realPointer img 3 }
      op := { n.op with real := realPointer img 5 }
      opcode := (imageWord img 4).setWidth 11
      form := .real }

/-- The ten bytes of `ST(i)` in a state image (R730). -/
def imageRegister (img : Nat) (i : Nat) : Temp := BitVec.ofNat 80 (img / 65536 ^ (7 + 5 * i))

/-- Reload the eight registers relative to TOP; tags are not changed (R730, R875). -/
def Npx.withRegisters (n : Npx) (img : Nat) : Npx :=
  let put (regs : Vector Temp 8) (i : BitVec 3) : Vector Temp 8 := regs.set (n.phys i) (imageRegister img i.toNat)
  { n with regs := ([0, 1, 2, 3, 4, 5, 6, 7] : List (BitVec 3)).foldl put n.regs }

/-- FSTENV masks every exception after storing (R872, D49). -/
def Npx.masked (n : Npx) : Npx := { n with control := n.control ||| 0x003F }

/-! ## Control (R865 to R871) -/

/-- FINIT (R865). -/
def execFinit (s : State) : Result := escape .finit .noWait .none (whenPresent (updateNpx Npx.initialized)) s

/-- FSETPM (R866). -/
def execFsetpm (s : State) : Result :=
  escape .fsetpm .noWait .none (whenPresent (updateNpx fun n => { n with pm := true })) s

/-- FLDCW (R867). -/
def execFldcw (m : Mem) (s : State) : Result :=
  escape (.fldcw m) .waiting (.source m)
    (withOperand m 1 fun img => updateNpx fun n => { n with control := imageWord img 0 }) s

/-- FSTCW (R868). -/
def execFstcw (m : Mem) (s : State) : Result :=
  escape (.fstcw m) .noWait (.target m)
    (storeOperand m 1 (do
      let c ← lookNpx (·.control)
      pure (some c.toNat)) (pure ())) s

/-- FSTSW to memory (R869). -/
def execFstsw (m : Mem) (s : State) : Result :=
  escape (.fstsw m) .noWait (.target m)
    (storeOperand m 1 (do
      let w ← lookNpx (·.statusWord)
      pure (some w.toNat)) (pure ())) s

/-- FSTSW AX; an absent 80287 gives all ones (R870, R711). -/
def execFstswAx (s : State) : Result :=
  escape .fstswAx .noWait .none (do
    let t ← look id
    setReg16 .ax (if t.npxPresent then t.npx.statusWord else 0xFFFF)) s

/-- FCLEX (R871). -/
def execFclex (s : State) : Result :=
  escape .fclex .noWait .none (whenPresent (updateNpx fun n => { n with status := n.status &&& 0xFFC0 })) s

/-! ## Environment and state (R872 to R875) -/

/-- FSTENV, once the 80287's activity is complete: after a segment overrun it waits until FNINIT (R771, R872, R924; log 28). -/
def execFstenv (m : Mem) (s : State) : Result :=
  escape (.fstenv m) .delayed (.target m)
    (storeOperand m 7 (do
      let ws ← environment
      pure (some (imageOf ws))) (updateNpx Npx.masked)) s

/-- FLDENV (R873). -/
def execFldenv (m : Mem) (s : State) : Result :=
  escape (.fldenv m) .waiting (.source m)
    (withOperand m 7 fun img => do
      let code ← drawWord
      updateNpx fun n => n.withEnvironment img code) s

/-- FSAVE: the image, then the state of FINIT, once the 80287's activity is complete (R771, R874, R924; log 28). -/
def execFsave (m : Mem) (s : State) : Result :=
  escape (.fsave m) .delayed (.target m)
    (storeOperand m 47 (do
      let ws ← environment
      let rs ← lookNpx (·.registerWords)
      pure (some (imageOf (ws ++ rs)))) (updateNpx Npx.initialized)) s

/-- FRSTOR (R875). -/
def execFrstor (m : Mem) (s : State) : Result :=
  escape (.frstor m) .waiting (.source m)
    (withOperand m 47 fun img => do
      let code ← drawWord
      updateNpx fun n => (n.withEnvironment img code).withRegisters img) s

/-! ## Stack control (R876 to R881) -/

/-- FINCSTP (R876). -/
def execFincstp (s : State) : Result := onRegisters .fincstp (updateNpx fun n => n.setTop (n.top + 1)) s

/-- FDECSTP (R877). -/
def execFdecstp (s : State) : Result := onRegisters .fdecstp (updateNpx fun n => n.setTop (n.top - 1)) s

/-- FFREE (R878). -/
def execFfree (i : BitVec 3) (s : State) : Result := onRegisters (.ffree i) (updateNpx (·.free i)) s

/-- FNOP (R879). -/
def execFnop (s : State) : Result := onRegisters .fnop (pure ()) s

/-- FENI (R881). -/
def execFeni (s : State) : Result := escape .feni .noWait .none (pure ()) s

/-- FDISI (R881). -/
def execFdisi (s : State) : Result := escape .fdisi .noWait .none (pure ()) s

/-! ## Encodings without an instruction (R886, R288, U21) -/

/-- ESC with an encoding the supplement reserves: an ordinary ESC for the 80286, which tests its memory operand as one it reads;
nothing changes in the 80287. -/
def execEsc (ttt n : BitVec 3) (e : Rm (BitVec 3)) (s : State) : Result :=
  if escAssigned ttt n e then .fault .assignedEncoding
  else
    escape (.esc ttt n e) .waiting (match e with | .reg _ => .none | .mem m => .source m) (pure ()) s

end Sys2Proof.Machine
end

