-- ==== Sys2Proof/Machine/NpxData.lean ====
section
/-! DEFINITION. The 80287's data transfer, constant and comparison instructions
(spec/49_npx_instructions.md R805 to R813, R840 to R846, R855 to R862). -/

namespace Sys2Proof.Machine

/-! ## Loads (R805, R809, R812) -/

/-- Push a short or long real (R805). -/
def loadReal (f : RealFormat) (img : Nat) : Exec Unit := do
  let full ← lookNpx fun n => !n.isEmpty 7
  if full then do
    if (← signal .i) then
      match (← operandTests (f.isDenormal img) false false) with
      | .stopped _ => pure ()
      | _ => updateNpx (·.push indefinite)
  else
    match (← operandTests (f.isDenormal img) false false) with
    | .stopped _ => pure ()
    | _ => updateNpx (·.push (f.widen img))

/-- Push a temporary real bit for bit; a denormal signals D (R745, R805). -/
def loadTemp (img : Nat) : Exec Unit := do
  let t := BitVec.ofNat 80 img
  let full ← lookNpx fun n => !n.isEmpty 7
  if full then do
    if (← signal .i) then
      match (← operandTests (classOf t == .denormal) false false) with
      | .stopped _ => pure ()
      | _ => updateNpx (·.push indefinite)
  else
    match (← operandTests (classOf t == .denormal) false false) with
    | .stopped _ => pure ()
    | _ => updateNpx (·.push t)

/-- FLD (R805). -/
def execFld (f : FldForm) (s : State) : Result :=
  match f with
  | .m32 m => fromMemory (.fld f) m 2 (loadReal shortReal) s
  | .m64 m => fromMemory (.fld f) m 4 (loadReal longReal) s
  | .m80 m => fromMemory (.fld f) m 5 loadTemp s
  | .st i => onRegisters (.fld f) (do
      let n ← lookNpx id
      pushOrFault (n.isEmpty i) (n.st i)) s

/-- FILD (R809). -/
def execFild (f : LongIntForm) (s : State) : Result :=
  match f with
  | .m16 m => fromMemory (.fild f) m 1 (fun img => pushOrFault false (integerTemp 16 img)) s
  | .m32 m => fromMemory (.fild f) m 2 (fun img => pushOrFault false (integerTemp 32 img)) s
  | .m64 m => fromMemory (.fild f) m 4 (fun img => pushOrFault false (integerTemp 64 img)) s

/-- FBLD; an image with a digit above 9 pushes an open value (R812, U14). -/
def execFbld (m : Mem) (s : State) : Result :=
  fromMemory (.fbld m) m 5 (fun img =>
    match packedTemp img with
    | some t => pushOrFault false t
    | none => do
      let t ← drawTemp
      pushOrFault false t) s

/-! ## Stores (R806, R807, R810, R811, R813) -/

/-- ST and whether it is Empty. -/
def Npx.source (n : Npx) : Bool × Temp := (n.isEmpty 0, n.st 0)

/-- The image a store makes of ST. -/
def imageOfTop (k : Bool → Temp → Exec (Option Nat)) : Exec (Option Nat) := do
  let (empty, t) ← lookNpx (·.source)
  k empty t

/-- `ST(i) <- ST(0)`, tag copied, then pop if the instruction pops; Empty signals I (R806, R807, D52). -/
def copyTop (i : BitVec 3) (pops : Bool) : Exec Unit := do
  let (empty, t) ← lookNpx (·.source)
  if empty then do
    if (← signal .i) then writeResult i pops (some indefinite)
  else writeResult i pops (some t)

/-- The image FSTP stores for a temporary real: all 80 bits (R807). -/
def tempImage (empty : Bool) (t : Temp) : Exec (Option Nat) :=
  if empty then storeInvalid indefinite.toNat else pure (some t.toNat)

/-- FST (R806). -/
def execFst (f : RealForm) (s : State) : Result :=
  match f with
  | .m32 m => toMemory (.fst f) m 2 (imageOfTop (narrow shortReal)) (pure ()) s
  | .m64 m => toMemory (.fst f) m 4 (imageOfTop (narrow longReal)) (pure ()) s
  | .st i => onRegisters (.fst f) (copyTop i false) s

/-- FSTP (R807). -/
def execFstp (f : FstpForm) (s : State) : Result :=
  match f with
  | .m32 m => toMemory (.fstp f) m 2 (imageOfTop (narrow shortReal)) (updateNpx (·.pop)) s
  | .m64 m => toMemory (.fstp f) m 4 (imageOfTop (narrow longReal)) (updateNpx (·.pop)) s
  | .m80 m => toMemory (.fstp f) m 5 (imageOfTop tempImage) (updateNpx (·.pop)) s
  | .st i => onRegisters (.fstp f) (copyTop i true) s

/-- FIST (R810). -/
def execFist (f : IntForm) (s : State) : Result :=
  match f with
  | .m16 m => toMemory (.fist f) m 1 (imageOfTop (integerImage 16)) (pure ()) s
  | .m32 m => toMemory (.fist f) m 2 (imageOfTop (integerImage 32)) (pure ()) s

/-- FISTP (R811). -/
def execFistp (f : LongIntForm) (s : State) : Result :=
  match f with
  | .m16 m => toMemory (.fistp f) m 1 (imageOfTop (integerImage 16)) (updateNpx (·.pop)) s
  | .m32 m => toMemory (.fistp f) m 2 (imageOfTop (integerImage 32)) (updateNpx (·.pop)) s
  | .m64 m => toMemory (.fistp f) m 4 (imageOfTop (integerImage 64)) (updateNpx (·.pop)) s

/-- FBSTP (R813). -/
def execFbstp (m : Mem) (s : State) : Result :=
  toMemory (.fbstp m) m 5 (imageOfTop packedStore) (updateNpx (·.pop)) s

/-- Exchange ST and `ST(i)` with their tags; Empty registers become real indefinite first (R808, R762). -/
def exchangeTop (i : BitVec 3) : Exec Unit := do
  let n ← lookNpx id
  let go ← if n.isEmpty 0 || n.isEmpty i then signal .i else pure true
  if go then
    let a := if n.isEmpty 0 then indefinite else n.st 0
    let b := if n.isEmpty i then indefinite else n.st i
    updateNpx fun k => (k.setSt 0 b).setSt i a

/-- FXCH (R808). -/
def execFxch (i : BitVec 3) (s : State) : Result := onRegisters (.fxch i) (exchangeTop i) s

/-! ## Comparison (R840 to R846) -/

/-- FCOM (R840). -/
def execFcom (f : RealForm) (s : State) : Result := compareForm (.fcom f) 0 f s

/-- FCOMP (R841). -/
def execFcomp (f : RealForm) (s : State) : Result := compareForm (.fcomp f) 1 f s

/-- FCOMPP (R842). -/
def execFcompp (s : State) : Result := onRegisters .fcompp (compareWith 2 fun n => n.operand 1) s

/-- FICOM (R843). -/
def execFicom (f : IntForm) (s : State) : Result := compareInteger (.ficom f) 0 f s

/-- FICOMP (R844). -/
def execFicomp (f : IntForm) (s : State) : Result := compareInteger (.ficomp f) 1 f s

/-- FTST (R845). -/
def execFtst (s : State) : Result :=
  onRegisters .ftst
    (compareWith 0 fun _ => { value := zeroOf false, denormal := false, empty := false, memory := false }) s

/-- C3, C2, C0 of each class (R846, Table 2-8). -/
def examineCodes : NumClass → Bool × Bool × Bool
  | .unnormal => (false, false, false)
  | .nan => (false, false, true)
  | .normal => (false, true, false)
  | .infinity => (false, true, true)
  | .zero => (true, false, false)
  | .denormal => (true, true, false)

/-- FXAM; of an Empty register C2 and C1 are open (R846, U19). -/
def execFxam (s : State) : Result :=
  onRegisters .fxam (do
    let (empty, t) ← lookNpx (·.source)
    if empty then do
      let c2 ← drawBit
      let c1 ← drawBit
      setCompareCodes true c2 true
      setC1 c1
    else do
      let (c3, c2, c0) := examineCodes (classOf t)
      setCompareCodes c3 c2 c0
      setC1 (signOf t)) s

/-! ## Constants (R855 to R862; the irrational ones are G9) -/

/-- FLDZ (R856). -/
def execFldz (s : State) : Result := onRegisters .fldz (pushOrFault false 0) s

/-- FLD1 (R857). -/
def execFld1 (s : State) : Result := onRegisters .fld1 (pushOrFault false 0x3FFF8000000000000000) s

/-- FLDPI (R858). -/
def execFldpi (s : State) : Result := onRegisters .fldpi (pushOrFault false 0x4000C90FDAA22168C235) s

/-- FLDL2T (R859). -/
def execFldl2t (s : State) : Result := onRegisters .fldl2t (pushOrFault false 0x4000D49A784BCD1B8AFE) s

/-- FLDL2E (R860). -/
def execFldl2e (s : State) : Result := onRegisters .fldl2e (pushOrFault false 0x3FFFB8AA3B295C17F0BC) s

/-- FLDLG2 (R861). -/
def execFldlg2 (s : State) : Result := onRegisters .fldlg2 (pushOrFault false 0x3FFD9A209A84FBCFF799) s

/-- FLDLN2 (R862). -/
def execFldln2 (s : State) : Result := onRegisters .fldln2 (pushOrFault false 0x3FFEB17217F7D1CF79AC) s

/-! ## The alias encodings (R885) -/

/-- D9 D8+i: FSTP ST(i). -/
def execFstpAlias1 (i : BitVec 3) (s : State) : Result := onRegisters (.fstpAlias1 i) (copyTop i true) s

/-- DC D0+i: FCOM ST(i). -/
def execFcomAlias2 (i : BitVec 3) (s : State) : Result :=
  onRegisters (.fcomAlias2 i) (compareWith 0 fun n => n.operand i) s

/-- DC D8+i: FCOMP ST(i). -/
def execFcompAlias3 (i : BitVec 3) (s : State) : Result :=
  onRegisters (.fcompAlias3 i) (compareWith 1 fun n => n.operand i) s

/-- DD C8+i: FXCH ST(i). -/
def execFxchAlias4 (i : BitVec 3) (s : State) : Result := onRegisters (.fxchAlias4 i) (exchangeTop i) s

/-- DE D0+i: FCOMP ST(i). -/
def execFcompAlias5 (i : BitVec 3) (s : State) : Result :=
  onRegisters (.fcompAlias5 i) (compareWith 1 fun n => n.operand i) s

/-- DF C0+i: FFREE ST(i) and pop. -/
def execFfreePopAlias6 (i : BitVec 3) (s : State) : Result :=
  onRegisters (.ffreePopAlias6 i) (updateNpx fun n => (n.free i).pop) s

/-- DF C8+i: FXCH ST(i). -/
def execFxchAlias7 (i : BitVec 3) (s : State) : Result := onRegisters (.fxchAlias7 i) (exchangeTop i) s

/-- DF D0+i: FSTP ST(i). -/
def execFstpAlias8 (i : BitVec 3) (s : State) : Result := onRegisters (.fstpAlias8 i) (copyTop i true) s

/-- DF D8+i: FSTP ST(i). -/
def execFstpAlias9 (i : BitVec 3) (s : State) : Result := onRegisters (.fstpAlias9 i) (copyTop i true) s

end Sys2Proof.Machine
end

