-- ==== Sys2Proof/Machine/StringOps.lean ====
section
/-! DEFINITION. String and string I/O instructions and their repetition (spec/43_string.md). One step of the model is one
iteration of the loop of R480, so that the step after it can recognise an interrupt (log 1); before the first one State.eventInside does. -/

namespace Sys2Proof.Machine

/-- How far an index register moves: the element size, negative with DF set (R461). -/
def State.delta (s : State) (n : Nat) : Word := if s.flag .df then -BitVec.ofNat 16 n else BitVec.ofNat 16 n

/-- Advance SI (R461). -/
def advanceSi (n : Nat) : Exec Unit := update fun s => { s with si := s.si + s.delta n }

/-- Advance DI (R461). -/
def advanceDi (n : Nat) : Exec Unit := update fun s => { s with di := s.di + s.delta n }

/-- The source element at SEG:SI, DS unless overridden (R460). -/
def srcByte : Place 8 := .mem8 (·.overridden .ds) (·.si)

/-- The source element at SEG:SI (R460). -/
def srcWord : Place 16 := .mem16 (·.overridden .ds) (·.si)

/-- The destination element at ES:DI, never overridden (R460). -/
def dstByte : Place 8 := .mem8 (fun _ => .es) (·.di)

/-- The destination element at ES:DI (R460). -/
def dstWord : Place 16 := .mem16 (fun _ => .es) (·.di)

/-! ## The primitives (R463 to R469) -/

/-- MOVS (R463). -/
def movs {n : Nat} (src dst : Place n) : Exec Unit := do
  let v ← src.read
  dst.write v
  advanceSi (n / 8)
  advanceDi (n / 8)

/-- CMPS: source minus destination (R464). -/
def cmps {n : Nat} (src dst : Place n) : Exec Unit := do
  let a ← src.read
  let b ← dst.read
  let _ ← subOp false n a b
  advanceSi (n / 8)
  advanceDi (n / 8)

/-- SCAS: accumulator minus destination (R465). -/
def scas {n : Nat} (acc dst : Place n) : Exec Unit := do
  let a ← acc.read
  let b ← dst.read
  let _ ← subOp false n a b
  advanceDi (n / 8)

/-- LODS (R466). -/
def lods {n : Nat} (acc src : Place n) : Exec Unit := do
  let v ← src.read
  acc.write v
  advanceSi (n / 8)

/-- STOS (R467). -/
def stos {n : Nat} (acc dst : Place n) : Exec Unit := do
  let v ← acc.read
  dst.write v
  advanceDi (n / 8)

/-- INS: the destination is tested before the port is read (R468, D22). -/
def ins {n : Nat} (dst : Place n) (input : Word → Exec (BitVec n)) : Exec Unit := do
  requireIopl
  ofExcept (← look dst.writable)
  let v ← input (← look (·.dx))
  dst.write v
  advanceDi (n / 8)

/-- OUTS (R469). -/
def outs {n : Nat} (src : Place n) (output : Word → BitVec n → Exec Unit) : Exec Unit := do
  requireIopl
  let v ← src.read
  output (← look (·.dx)) v
  advanceSi (n / 8)

/-! ## Repetition (R480 to R482) -/

/-- Whether the loop is left after an element: CX is 0, or, for CMPS and SCAS, ZF fails the repeat condition (R480). -/
def repeatEnds (k : RepKind) (compares : Bool) (s : State) : Bool :=
  s.cx == 0 || (compares && (match k with | .rep => !s.flag .zf | .repne => s.flag .zf))

/-- A primitive alone, or one iteration of the repetition of the instruction `i`. An exception finds the state of the start of
the iteration (R482). -/
def repeated (i : Instr) (compares : Bool) (op : Exec Unit) : Exec Ending := do
  match (← look (·.pfx.rep)) with
  | none =>
    op
    pure .done
  | some k => do
    if (← look (·.cx)) = 0 then pure .done
    else
      op
      update fun s => { s with cx := s.cx - 1 }
      if (← look (repeatEnds k compares)) then pure .done else pure (.again i)

/-- MOVSB (R463). -/
def execMovsb (s : State) : Result := conclude (repeated .movsb false (movs srcByte dstByte)) s

/-- MOVSW (R463). -/
def execMovsw (s : State) : Result := conclude (repeated .movsw false (movs srcWord dstWord)) s

/-- CMPSB (R464). -/
def execCmpsb (s : State) : Result := conclude (repeated .cmpsb true (cmps srcByte dstByte)) s

/-- CMPSW (R464). -/
def execCmpsw (s : State) : Result := conclude (repeated .cmpsw true (cmps srcWord dstWord)) s

/-- SCASB (R465). -/
def execScasb (s : State) : Result := conclude (repeated .scasb true (scas (.reg8 .al) dstByte)) s

/-- SCASW (R465). -/
def execScasw (s : State) : Result := conclude (repeated .scasw true (scas (.reg16 .ax) dstWord)) s

/-- LODSB (R466). -/
def execLodsb (s : State) : Result := conclude (repeated .lodsb false (lods (.reg8 .al) srcByte)) s

/-- LODSW (R466). -/
def execLodsw (s : State) : Result := conclude (repeated .lodsw false (lods (.reg16 .ax) srcWord)) s

/-- STOSB (R467). -/
def execStosb (s : State) : Result := conclude (repeated .stosb false (stos (.reg8 .al) dstByte)) s

/-- STOSW (R467). -/
def execStosw (s : State) : Result := conclude (repeated .stosw false (stos (.reg16 .ax) dstWord)) s

/-- INSB (R468). -/
def execInsb (s : State) : Result := conclude (repeated .insb false (ins dstByte portIn)) s

/-- INSW (R468). -/
def execInsw (s : State) : Result := conclude (repeated .insw false (ins dstWord portInWord)) s

/-- OUTSB (R469). -/
def execOutsb (s : State) : Result := conclude (repeated .outsb false (outs srcByte portOut)) s

/-- OUTSW (R469). -/
def execOutsw (s : State) : Result := conclude (repeated .outsw false (outs srcWord portOutWord)) s

end Sys2Proof.Machine
end

