-- ==== Sys2Proof/Machine/System.lean ====
section
/-! DEFINITION. System control and pointer validation (spec/47_system.md). -/

namespace Sys2Proof.Machine

/-- The instructions that Real Address Mode does not recognise (R660). -/
def requireProtected : Exec Unit := do
  let pe ← look (·.pe)
  require pe .ud

/-! ## GDTR and IDTR (R661, R662) -/

/-- The six-byte operand of LGDT and LIDT; byte 5 is ignored (R661). -/
def readTable (m : Mem) : Exec TableReg := do
  let w0 ← memWord m 0
  let w1 ← memWord m 2
  let w2 ← memWord m 4
  pure { limit := w0, base := loByte w2 ++ w1 }

/-- The operand of SGDT and SIDT; byte 5 is open (R662, U12). -/
def writeTable (m : Mem) (t : TableReg) : Exec Unit := do
  let open5 ← drawByte
  storeMemWord m 0 t.limit
  storeMemWord m 2 (t.base.extractLsb' 0 16)
  storeMemWord m 4 (mkWord open5 (t.base.extractLsb' 16 8))

/-- LGDT (R661). -/
def execLgdt (m : Mem) (s : State) : Result :=
  finish (do
    requireCpl0
    let t ← readTable m
    update fun u => { u with gdtr := t }) s

/-- LIDT (R661). -/
def execLidt (m : Mem) (s : State) : Result :=
  finish (do
    requireCpl0
    let t ← readTable m
    update fun u => { u with idtr := t }) s

/-- SGDT (R662). -/
def execSgdt (m : Mem) (s : State) : Result := finish (writeTable m s.gdtr) s

/-- SIDT (R662). -/
def execSidt (m : Mem) (s : State) : Result := finish (writeTable m s.idtr) s

/-! ## LDTR and TR (R663 to R666) -/

/-- LLDT (R663). -/
def execLldt (e : Ew) (s : State) : Result :=
  finish (do
    requireProtected
    requireCpl0
    let sel ← (placeEw e).read
    if isNull sel then update fun u => { u with ldtr := { u.ldtr with sel := sel, valid := false } }
    else
      require (!isLocal sel) (.gp sel)
      let d ← fetchDesc sel (.gp sel)
      require (d.type == 2) (.gp sel)
      require d.present (.np sel)
      update fun u => { u with ldtr := { sel := sel, base := d.base, limit := d.limit, valid := true } }) s

/-- SLDT (R664). -/
def execSldt (e : Ew) (s : State) : Result :=
  finish (do
    requireProtected
    (placeEw e).write s.ldtr.sel) s

/-- LTR (R665). -/
def execLtr (e : Ew) (s : State) : Result :=
  finish (do
    requireProtected
    requireCpl0
    let sel ← (placeEw e).read
    require (!isNull sel) (.gp 0)
    require (!isLocal sel) (.gp sel)
    let d ← fetchDesc sel (.gp sel)
    require (d.type == 1) (.gp sel)
    require d.present (.np sel)
    update (·.markBusy d)
    update fun u => { u with tr := { sel := sel, base := d.base, limit := d.limit, valid := true } }) s

/-- STR (R666). -/
def execStr (e : Ew) (s : State) : Result :=
  finish (do
    requireProtected
    (placeEw e).write s.tr.sel) s

/-! ## MSW (R667 to R669) -/

/-- MSW after LMSW of `v`: PE is never cleared, bits 15:4 are kept (R667, D5). -/
def loadedMsw (msw v : Word) : Word := (msw &&& 0xFFF1) ||| (v &&& 0x000F)

/-- LMSW. PE set with CS selector bits 1:0 not zero is what the spec refuses (R667, D64, U22). -/
def execLmsw (e : Ew) (s : State) : Result :=
  finish (do
    requireCpl0
    let v ← (placeEw e).read
    if !s.pe && v.getLsbD 0 && rpl s.cs.sel != 0 then stop (.refused .protectedModeCpl)
    else update fun u => { u with msw := loadedMsw u.msw v }) s

/-- SMSW (R668). -/
def execSmsw (e : Ew) (s : State) : Result := finish ((placeEw e).write s.msw) s

/-- CLTS (R669). -/
def execClts (s : State) : Result :=
  finish (do
    requireCpl0
    update fun u => { u with msw := u.msw &&& 0xFFF7 }) s

/-! ## Pointer validation (R670 to R675) -/

/-- `D(s)` when the selector is defined: not null, within its table (R670, D34). -/
def State.definedDesc (s : State) (sel : Word) : Option Desc := if isNull sel then none else s.descriptor sel

/-- `Visible(s, d)` (R670). -/
def State.visible (s : State) (sel : Word) (d : Desc) : Bool :=
  d.conforming || (decide (s.cpl ≤ d.dpl) && decide (rpl sel ≤ d.dpl))

/-- `HasLimit(d)` (R673). -/
def Desc.hasLimit (d : Desc) : Bool := d.isCode || d.isData || d.type == 1 || d.type == 2 || d.type == 3

/-- ARPL: the destination is written only when its RPL is raised (R671, D35). -/
def execArpl (e : Ew) (r : Reg16) (s : State) : Result :=
  finish (do
    requireProtected
    let d ← (placeEw e).read
    if rpl d < rpl (s.reg16 r) then do
      (placeEw e).write (withRpl d (rpl (s.reg16 r)))
      setFlag .zf true
    else setFlag .zf false) s

/-- Load a register from a descriptor and set ZF, or only clear ZF. -/
def loadIf (r : Reg16) (v : Option Word) : Exec Unit :=
  match v with
  | some w => do
    setReg16 r w
    setFlag .zf true
  | none => setFlag .zf false

/-- LAR (R672, D36). -/
def execLar (r : Reg16) (e : Ew) (s : State) : Result :=
  finish (do
    requireProtected
    let sel ← (placeEw e).read
    loadIf r (((s.definedDesc sel).filter fun d => s.visible sel d).map fun d => mkWord d.access 0)) s

/-- LSL (R673). -/
def execLsl (r : Reg16) (e : Ew) (s : State) : Result :=
  finish (do
    requireProtected
    let sel ← (placeEw e).read
    loadIf r (((s.definedDesc sel).filter fun d => d.hasLimit && s.visible sel d).map (·.limit))) s

/-- VERR (R674). -/
def execVerr (e : Ew) (s : State) : Result :=
  finish (do
    requireProtected
    let sel ← (placeEw e).read
    setFlag .zf ((s.definedDesc sel).any fun d => d.readable && s.visible sel d)) s

/-- VERW (R675). -/
def execVerw (e : Ew) (s : State) : Result :=
  finish (do
    requireProtected
    let sel ← (placeEw e).read
    setFlag .zf ((s.definedDesc sel).any fun d => d.writable && s.visible sel d)) s

end Sys2Proof.Machine
end

