-- ==== Sys2Proof/Machine/Dispatch.lean ====
section
/-! DEFINITION. The meaning of every instruction: one arm for each constructor of Instr. -/

namespace Sys2Proof.Machine

/-- Run one decoded instruction; IP already points past it (00_scope.md R19). -/
def exec (i : Instr) (s : State) : Host.Outcome State Fault Refusal :=
  match i with
  | .add f => Sys2Proof.Machine.execAdd f s
  | .or f => Sys2Proof.Machine.execOr f s
  | .adc f => Sys2Proof.Machine.execAdc f s
  | .sbb f => Sys2Proof.Machine.execSbb f s
  | .and f => Sys2Proof.Machine.execAnd f s
  | .sub f => Sys2Proof.Machine.execSub f s
  | .xor f => Sys2Proof.Machine.execXor f s
  | .cmp f => Sys2Proof.Machine.execCmp f s
  | .mov f => Sys2Proof.Machine.execMov f s
  | .push f => Sys2Proof.Machine.execPush f s
  | .pop f => Sys2Proof.Machine.execPop f s
  | .pusha => Sys2Proof.Machine.execPusha s
  | .popa => Sys2Proof.Machine.execPopa s
  | .pushf => Sys2Proof.Machine.execPushf s
  | .popf => Sys2Proof.Machine.execPopf s
  | .xchg f => Sys2Proof.Machine.execXchg f s
  | .xlat => Sys2Proof.Machine.execXlat s
  | .inp f => Sys2Proof.Machine.execInp f s
  | .outp f => Sys2Proof.Machine.execOutp f s
  | .lea r m => Sys2Proof.Machine.execLea r m s
  | .lds r m => Sys2Proof.Machine.execLds r m s
  | .les r m => Sys2Proof.Machine.execLes r m s
  | .lahf => Sys2Proof.Machine.execLahf s
  | .sahf => Sys2Proof.Machine.execSahf s
  | .cbw => Sys2Proof.Machine.execCbw s
  | .cwd => Sys2Proof.Machine.execCwd s
  | .inc f => Sys2Proof.Machine.execInc f s
  | .dec f => Sys2Proof.Machine.execDec f s
  | .not f => Sys2Proof.Machine.execNot f s
  | .neg f => Sys2Proof.Machine.execNeg f s
  | .mul f => Sys2Proof.Machine.execMul f s
  | .imul f => Sys2Proof.Machine.execImul f s
  | .div f => Sys2Proof.Machine.execDiv f s
  | .idiv f => Sys2Proof.Machine.execIdiv f s
  | .daa => Sys2Proof.Machine.execDaa s
  | .das => Sys2Proof.Machine.execDas s
  | .aaa => Sys2Proof.Machine.execAaa s
  | .aas => Sys2Proof.Machine.execAas s
  | .aam => Sys2Proof.Machine.execAam s
  | .aad => Sys2Proof.Machine.execAad s
  | .test f => Sys2Proof.Machine.execTest f s
  | .rol f => Sys2Proof.Machine.execRol f s
  | .ror f => Sys2Proof.Machine.execRor f s
  | .rcl f => Sys2Proof.Machine.execRcl f s
  | .rcr f => Sys2Proof.Machine.execRcr f s
  | .shl f => Sys2Proof.Machine.execShl f s
  | .shr f => Sys2Proof.Machine.execShr f s
  | .sar f => Sys2Proof.Machine.execSar f s
  | .movsb => Sys2Proof.Machine.execMovsb s
  | .movsw => Sys2Proof.Machine.execMovsw s
  | .cmpsb => Sys2Proof.Machine.execCmpsb s
  | .cmpsw => Sys2Proof.Machine.execCmpsw s
  | .scasb => Sys2Proof.Machine.execScasb s
  | .scasw => Sys2Proof.Machine.execScasw s
  | .lodsb => Sys2Proof.Machine.execLodsb s
  | .lodsw => Sys2Proof.Machine.execLodsw s
  | .stosb => Sys2Proof.Machine.execStosb s
  | .stosw => Sys2Proof.Machine.execStosw s
  | .insb => Sys2Proof.Machine.execInsb s
  | .insw => Sys2Proof.Machine.execInsw s
  | .outsb => Sys2Proof.Machine.execOutsb s
  | .outsw => Sys2Proof.Machine.execOutsw s
  | .rep => Sys2Proof.Machine.execRep s
  | .repne => Sys2Proof.Machine.execRepne s
  | .jmp f => Sys2Proof.Machine.execJmp f s
  | .jo d => Sys2Proof.Machine.execJo d s
  | .jno d => Sys2Proof.Machine.execJno d s
  | .jb d => Sys2Proof.Machine.execJb d s
  | .jae d => Sys2Proof.Machine.execJae d s
  | .je d => Sys2Proof.Machine.execJe d s
  | .jne d => Sys2Proof.Machine.execJne d s
  | .jbe d => Sys2Proof.Machine.execJbe d s
  | .ja d => Sys2Proof.Machine.execJa d s
  | .js d => Sys2Proof.Machine.execJs d s
  | .jns d => Sys2Proof.Machine.execJns d s
  | .jp d => Sys2Proof.Machine.execJp d s
  | .jnp d => Sys2Proof.Machine.execJnp d s
  | .jl d => Sys2Proof.Machine.execJl d s
  | .jge d => Sys2Proof.Machine.execJge d s
  | .jle d => Sys2Proof.Machine.execJle d s
  | .jg d => Sys2Proof.Machine.execJg d s
  | .jcxz d => Sys2Proof.Machine.execJcxz d s
  | .loop d => Sys2Proof.Machine.execLoop d s
  | .loope d => Sys2Proof.Machine.execLoope d s
  | .loopne d => Sys2Proof.Machine.execLoopne d s
  | .call f => Sys2Proof.Machine.execCall f s
  | .ret f => Sys2Proof.Machine.execRet f s
  | .int v => Sys2Proof.Machine.execInt v s
  | .int3 => Sys2Proof.Machine.execInt3 s
  | .into => Sys2Proof.Machine.execInto s
  | .iret => Sys2Proof.Machine.execIret s
  | .clc => Sys2Proof.Machine.execClc s
  | .stc => Sys2Proof.Machine.execStc s
  | .cmc => Sys2Proof.Machine.execCmc s
  | .cld => Sys2Proof.Machine.execCld s
  | .std => Sys2Proof.Machine.execStd s
  | .cli => Sys2Proof.Machine.execCli s
  | .sti => Sys2Proof.Machine.execSti s
  | .hlt => Sys2Proof.Machine.execHlt s
  | .nop => Sys2Proof.Machine.execNop s
  | .lock => Sys2Proof.Machine.execLock s
  | .segEs => Sys2Proof.Machine.execSegEs s
  | .segCs => Sys2Proof.Machine.execSegCs s
  | .segSs => Sys2Proof.Machine.execSegSs s
  | .segDs => Sys2Proof.Machine.execSegDs s
  | .enter size level => Sys2Proof.Machine.execEnter size level s
  | .leave => Sys2Proof.Machine.execLeave s
  | .bound r m => Sys2Proof.Machine.execBound r m s
  | .wait => Sys2Proof.Machine.execWait s
  | .esc ttt reg rm => Sys2Proof.Machine.execEsc ttt reg rm s
  | .arpl e r => Sys2Proof.Machine.execArpl e r s
  | .sldt e => Sys2Proof.Machine.execSldt e s
  | .str e => Sys2Proof.Machine.execStr e s
  | .lldt e => Sys2Proof.Machine.execLldt e s
  | .ltr e => Sys2Proof.Machine.execLtr e s
  | .verr e => Sys2Proof.Machine.execVerr e s
  | .verw e => Sys2Proof.Machine.execVerw e s
  | .sgdt m => Sys2Proof.Machine.execSgdt m s
  | .sidt m => Sys2Proof.Machine.execSidt m s
  | .lgdt m => Sys2Proof.Machine.execLgdt m s
  | .lidt m => Sys2Proof.Machine.execLidt m s
  | .smsw e => Sys2Proof.Machine.execSmsw e s
  | .lmsw e => Sys2Proof.Machine.execLmsw e s
  | .lar r e => Sys2Proof.Machine.execLar r e s
  | .lsl r e => Sys2Proof.Machine.execLsl r e s
  | .clts => Sys2Proof.Machine.execClts s
  | .fld f => Sys2Proof.Machine.execFld f s
  | .fst f => Sys2Proof.Machine.execFst f s
  | .fstp f => Sys2Proof.Machine.execFstp f s
  | .fxch k => Sys2Proof.Machine.execFxch k s
  | .fild f => Sys2Proof.Machine.execFild f s
  | .fist f => Sys2Proof.Machine.execFist f s
  | .fistp f => Sys2Proof.Machine.execFistp f s
  | .fbld m => Sys2Proof.Machine.execFbld m s
  | .fbstp m => Sys2Proof.Machine.execFbstp m s
  | .fadd f => Sys2Proof.Machine.execFadd f s
  | .faddp k => Sys2Proof.Machine.execFaddp k s
  | .fiadd f => Sys2Proof.Machine.execFiadd f s
  | .fmul f => Sys2Proof.Machine.execFmul f s
  | .fmulp k => Sys2Proof.Machine.execFmulp k s
  | .fimul f => Sys2Proof.Machine.execFimul f s
  | .fsub f => Sys2Proof.Machine.execFsub f s
  | .fsubp k => Sys2Proof.Machine.execFsubp k s
  | .fisub f => Sys2Proof.Machine.execFisub f s
  | .fsubr f => Sys2Proof.Machine.execFsubr f s
  | .fsubrp k => Sys2Proof.Machine.execFsubrp k s
  | .fisubr f => Sys2Proof.Machine.execFisubr f s
  | .fdiv f => Sys2Proof.Machine.execFdiv f s
  | .fdivp k => Sys2Proof.Machine.execFdivp k s
  | .fidiv f => Sys2Proof.Machine.execFidiv f s
  | .fdivr f => Sys2Proof.Machine.execFdivr f s
  | .fdivrp k => Sys2Proof.Machine.execFdivrp k s
  | .fidivr f => Sys2Proof.Machine.execFidivr f s
  | .fsqrt => Sys2Proof.Machine.execFsqrt s
  | .fscale => Sys2Proof.Machine.execFscale s
  | .fprem => Sys2Proof.Machine.execFprem s
  | .frndint => Sys2Proof.Machine.execFrndint s
  | .fxtract => Sys2Proof.Machine.execFxtract s
  | .fabs => Sys2Proof.Machine.execFabs s
  | .fchs => Sys2Proof.Machine.execFchs s
  | .fcom f => Sys2Proof.Machine.execFcom f s
  | .fcomp f => Sys2Proof.Machine.execFcomp f s
  | .fcompp => Sys2Proof.Machine.execFcompp s
  | .ficom f => Sys2Proof.Machine.execFicom f s
  | .ficomp f => Sys2Proof.Machine.execFicomp f s
  | .ftst => Sys2Proof.Machine.execFtst s
  | .fxam => Sys2Proof.Machine.execFxam s
  | .fptan => Sys2Proof.Machine.execFptan s
  | .fpatan => Sys2Proof.Machine.execFpatan s
  | .f2xm1 => Sys2Proof.Machine.execF2xm1 s
  | .fyl2x => Sys2Proof.Machine.execFyl2x s
  | .fyl2xp1 => Sys2Proof.Machine.execFyl2xp1 s
  | .fldz => Sys2Proof.Machine.execFldz s
  | .fld1 => Sys2Proof.Machine.execFld1 s
  | .fldpi => Sys2Proof.Machine.execFldpi s
  | .fldl2t => Sys2Proof.Machine.execFldl2t s
  | .fldl2e => Sys2Proof.Machine.execFldl2e s
  | .fldlg2 => Sys2Proof.Machine.execFldlg2 s
  | .fldln2 => Sys2Proof.Machine.execFldln2 s
  | .finit => Sys2Proof.Machine.execFinit s
  | .fsetpm => Sys2Proof.Machine.execFsetpm s
  | .fldcw m => Sys2Proof.Machine.execFldcw m s
  | .fstcw m => Sys2Proof.Machine.execFstcw m s
  | .fstsw m => Sys2Proof.Machine.execFstsw m s
  | .fstswAx => Sys2Proof.Machine.execFstswAx s
  | .fclex => Sys2Proof.Machine.execFclex s
  | .fstenv m => Sys2Proof.Machine.execFstenv m s
  | .fldenv m => Sys2Proof.Machine.execFldenv m s
  | .fsave m => Sys2Proof.Machine.execFsave m s
  | .frstor m => Sys2Proof.Machine.execFrstor m s
  | .fincstp => Sys2Proof.Machine.execFincstp s
  | .fdecstp => Sys2Proof.Machine.execFdecstp s
  | .ffree k => Sys2Proof.Machine.execFfree k s
  | .fnop => Sys2Proof.Machine.execFnop s
  | .feni => Sys2Proof.Machine.execFeni s
  | .fdisi => Sys2Proof.Machine.execFdisi s
  | .fstpAlias1 k => Sys2Proof.Machine.execFstpAlias1 k s
  | .fcomAlias2 k => Sys2Proof.Machine.execFcomAlias2 k s
  | .fcompAlias3 k => Sys2Proof.Machine.execFcompAlias3 k s
  | .fxchAlias4 k => Sys2Proof.Machine.execFxchAlias4 k s
  | .fcompAlias5 k => Sys2Proof.Machine.execFcompAlias5 k s
  | .ffreePopAlias6 k => Sys2Proof.Machine.execFfreePopAlias6 k s
  | .fxchAlias7 k => Sys2Proof.Machine.execFxchAlias7 k s
  | .fstpAlias8 k => Sys2Proof.Machine.execFstpAlias8 k s
  | .fstpAlias9 k => Sys2Proof.Machine.execFstpAlias9 k s

end Sys2Proof.Machine
end

