-- ==== Sys2Proof/Machine/Step.lean ====
section
/-! DEFINITION. One step of the machine: RESET, an event recognised between instructions, or one instruction
(spec/00_scope.md R19). -/

namespace Sys2Proof.Machine

/-- Fetch, decode and execute one instruction or prefix. -/
def State.runInstr (s : State) : Host.Outcome State Fault Refusal :=
  match fetchInstr s with
  | .ok i t => exec i t
  | .error e t => s.stopped t e

/-- The state in which a held instruction goes on: its prefixes, IP past it (43_string.md R480, R561). -/
def State.resumed (s : State) (h : Held) : State :=
  { s with ip := h.ip, ipCarry := h.ipCarry, pfx := h.pfx, held := none }

/-- Go on with the held instruction, or fetch the next one. -/
def State.proceed (s : State) : Host.Outcome State Fault Refusal :=
  match s.held with
  | some h => exec h.instr (s.resumed h)
  | none => s.begin.runInstr

/-- One step without RESET, the inputs `i` being sampled: shutdown, halt, an event at a boundary, or an instruction; after a prefix
there is no boundary, but the instruction may look for events itself (R19, R480, R561). -/
def State.advance (s : State) (i : Inputs) : Host.Outcome State Fault Refusal :=
  match s.run with
  | .shutdown => .next s.shutdownStep
  | .halted =>
    match s.boundary i with
    | some t => .next t
    | none => .next s
  | .running =>
    if s.pfx.count = 0 then
      match s.boundary i with
      | some t => .next t
      | none => s.proceed
    else
      match s.eventInside i with
      | some t => .next t
      | none => s.runInstr

/-- The memory that a step would leave. -/
def memAfter (old : List Host.Cell) : Host.Outcome State Fault Refusal → List Host.Cell
  | .next t => t.mem
  | .fault _ => old
  | .refused _ => old

/-- The step. RESET abandons what the step would have done (R981, U24). -/
def step (s : State) : Host.Outcome State Fault Refusal :=
  if s.input.reset then .next (s.sampled.resetBy (memAfter s.sampled.mem (s.sampled.advance s.input)))
  else s.sampled.advance s.input

/-- Load bytes into the memory, RAM or ROM, that the code segment reads from an offset on. -/
def State.placeCode (s : State) : List Byte → Nat → List Host.Cell → List Host.Cell
  | [], _, m => m
  | b :: bs, off, m => State.placeCode s bs (off + 1) (Memory.write m (s.physical (s.cs.addr off)).toNat b)

/-- The state with an opcode-table word, zeros after it, at CS:IP; nothing of it lies in the prefetch queue's past
(log 16), and no instruction goes on. -/
def State.withFetchWord (s : State) (nbits w : Nat) : State :=
  { s with mem := s.placeCode (tableImage nbits w) s.fetchOffset s.mem, stale := [], held := none }

end Sys2Proof.Machine
end

