-- ==== Sys2Proof/Safety.lean ====
section
/-! DEFINITION. The terms statements are made in: runs, invariants, operand locations, and frames that say what an instruction
leaves unchanged. The arithmetic of this file is written on numbers, from the rules, not from the model's operations. -/

namespace Sys2Proof.Machine

/-! ## Runs -/

/-- A step neither faults nor is refused. -/
def State.Safe (s : State) : Prop := ∃ t, step s = .next t

/-- The prefixes (R252). -/
def isPrefix (i : Instr) : Bool := i ∈ [Instr.segEs, .segCs, .segSs, .segDs, .lock, .rep, .repne]

/-- The invariant that every step keeps: memory in its canonical form (log 4); the reserved bits of FLAGS at the reset image (R45,
U2); MSW bits 15 to 4 ones (R48); in Real Address Mode IOPL = 0 and NT = 0 (R44); the derived bits of the 80287's status
word not held (R717, R719); at most ten prefix bytes, those of an instruction that goes on among them, which is
no prefix itself (R251, R480, R561). -/
def State.Inv (s : State) : Prop :=
  Memory.wf s.mem = true ∧
  s.flags &&& 0x802A = 0x0002 ∧
  s.msw &&& 0xFFF0 = 0xFFF0 ∧
  (s.pe = false → s.flags &&& 0x7000 = 0) ∧
  s.npx.status &&& 0x80C0 = 0 ∧
  s.pfx.count ≤ 10 ∧
  (∀ h : Held, s.held = some h → h.pfx.count ≤ 10 ∧ isPrefix h.instr = false)

/-! ## Memory -/

/-- RAM at every address, in its canonical form: what stores do is stated of such states, and for a byte stored or loaded through
a memory operand of any platform once (MovAndXchgMoveOperands; 00_scope.md R7, log 4). -/
def State.plainMemory (s : State) : Bool := Memory.wf s.mem && decide (s.platform = .flat)

/-! ## Locations -/

/-- Where an operand or a result is: a register, or bytes of physical memory. -/
inductive Loc where
  | reg8 (r : Reg8)
  | reg16 (r : Reg16)
  | mem8 (a : Addr)
  | mem16 (a : Addr)
  deriving DecidableEq, Repr

/-- The width in bits. -/
def Loc.bits : Loc → Nat
  | .reg8 _ => 8
  | .reg16 _ => 16
  | .mem8 _ => 8
  | .mem16 _ => 16

/-- The bytes of memory it names. -/
def Loc.bytes : Loc → List Addr
  | .mem8 a => [a]
  | .mem16 a => [a, a + 1]
  | _ => []

/-- The word register a byte register is half of (R31). -/
def halfOf : Reg8 → Reg16
  | .al => .ax
  | .ah => .ax
  | .cl => .cx
  | .ch => .cx
  | .dl => .dx
  | .dh => .dx
  | .bl => .bx
  | .bh => .bx

/-- Changing it can change the word register `r`. -/
def Loc.hits16 (l : Loc) (r : Reg16) : Bool :=
  match l with
  | .reg8 q => halfOf q == r
  | .reg16 q => q == r
  | _ => false

/-- Changing it can change the byte register `r`. -/
def Loc.hits8 (l : Loc) (r : Reg8) : Bool :=
  match l with
  | .reg8 q => q == r
  | .reg16 q => halfOf r == q
  | _ => false

/-- Its contents as an unsigned number. -/
def State.get (s : State) : Loc → Nat
  | .reg8 r => (s.reg8 r).toNat
  | .reg16 r => (s.reg16 r).toNat
  | .mem8 a => (s.readByte a).toNat
  | .mem16 a => (s.readByte a).toNat + 256 * (s.readByte (a + 1)).toNat

/-- The location of an `eb` operand (R266). -/
def State.locEb (s : State) : Eb → Loc
  | .reg r => .reg8 r
  | .mem m => .mem8 ((s.seg (s.memSeg m)).addr (s.ea m).toNat)

/-- The location of an `ew` operand (R266). -/
def State.locEw (s : State) : Ew → Loc
  | .reg r => .reg16 r
  | .mem m => .mem16 ((s.seg (s.memSeg m)).addr (s.ea m).toNat)

/-- `n` bytes, `k` bytes into a memory operand, may be read (R119). -/
def State.mayRead (s : State) (S : Sreg) (off n : Nat) : Bool :=
  match s.checkRead S off n with
  | .ok _ => true
  | .error _ => false

/-- `n` bytes may be written (R119). -/
def State.mayWrite (s : State) (S : Sreg) (off n : Nat) : Bool :=
  match s.checkWrite S off n with
  | .ok _ => true
  | .error _ => false

/-- A memory operand of `n` bytes may be read; a register always can. -/
def State.readable {R : Type} (s : State) (e : Rm R) (n : Nat) : Bool :=
  match e with
  | .reg _ => true
  | .mem m => s.mayRead (s.memSeg m) (s.ea m).toNat n

/-- A memory operand of `n` bytes may be written; a register always can. -/
def State.writable {R : Type} (s : State) (e : Rm R) (n : Nat) : Bool :=
  match e with
  | .reg _ => true
  | .mem m => s.mayWrite (s.memSeg m) (s.ea m).toNat n

/-! ## Operand forms of the two-operand instructions (R371) -/

/-- The destination of a row. -/
def State.aluDst (s : State) : AluForm → Loc
  | .ebRb e _ => s.locEb e
  | .ewRw e _ => s.locEw e
  | .rbEb r _ => .reg8 r
  | .rwEw r _ => .reg16 r
  | .alDb _ => .reg8 .al
  | .axDw _ => .reg16 .ax
  | .ebDb e _ => s.locEb e
  | .ewDw e _ => s.locEw e
  | .ewDb e _ => s.locEw e

/-- The source of a row as an unsigned number; the byte immediate of a word operation is sign-extended. -/
def State.aluSrc (s : State) : AluForm → Nat
  | .ebRb _ r => (s.reg8 r).toNat
  | .ewRw _ r => (s.reg16 r).toNat
  | .rbEb _ e => s.get (s.locEb e)
  | .rwEw _ e => s.get (s.locEw e)
  | .alDb v => v.toNat
  | .axDw v => v.toNat
  | .ebDb _ v => v.toNat
  | .ewDw _ v => v.toNat
  | .ewDb _ v => if v.toNat < 128 then v.toNat else v.toNat + 0xFF00

/-- The operands of a row may be read, and its destination written if it is (`writes`). -/
def State.aluReady (s : State) (writes : Bool) : AluForm → Bool
  | .ebRb e _ => s.readable e 1 && (!writes || s.writable e 1)
  | .ewRw e _ => s.readable e 2 && (!writes || s.writable e 2)
  | .rbEb _ e => s.readable e 1
  | .rwEw _ e => s.readable e 2
  | .alDb _ => true
  | .axDw _ => true
  | .ebDb e _ => s.readable e 1 && (!writes || s.writable e 1)
  | .ewDw e _ => s.readable e 2 && (!writes || s.writable e 2)
  | .ewDb e _ => s.readable e 2 && (!writes || s.writable e 2)

/-! ## Arithmetic on numbers (R10, R15) -/

/-- The signed reading of a `w`-bit number (R10). -/
def signedOf (w a : Nat) : Int := if a < 2 ^ (w - 1) then a else (a : Int) - 2 ^ w

/-- An integer is outside the signed range of `w` bits. -/
def outOfRange (w : Nat) (x : Int) : Bool := decide (x < -(2 ^ (w - 1)) ∨ (2 : Int) ^ (w - 1) ≤ x)

/-- The low eight bits of a number hold an even number of ones (R15). -/
def evenOnes (r : Nat) : Bool := ((List.range 8).filter r.testBit).length % 2 == 0

/-- ZF, SF and PF of a `w`-bit result (R15). -/
def ResultFlags (t : State) (w r : Nat) : Prop :=
  t.flag .zf = decide (r = 0) ∧ t.flag .sf = decide (2 ^ (w - 1) ≤ r) ∧ t.flag .pf = evenOnes r

/-- CF, AF and OF of `a + b + c` at `w` bits (R15). -/
def AddFlags (t : State) (w a b c : Nat) : Prop :=
  t.flag .cf = decide (2 ^ w ≤ a + b + c) ∧
  t.flag .af = decide (16 ≤ a % 16 + b % 16 + c) ∧
  t.flag .of = outOfRange w (signedOf w a + signedOf w b + c)

/-- CF, AF and OF of `a - b - c` at `w` bits (R15). -/
def SubFlags (t : State) (w a b c : Nat) : Prop :=
  t.flag .cf = decide (a < b + c) ∧
  t.flag .af = decide (a % 16 < b % 16 + c) ∧
  t.flag .of = outOfRange w (signedOf w a - signedOf w b - c)

/-- `a + b + c` modulo 2^w. -/
def sumMod (w a b c : Nat) : Nat := (a + b + c) % 2 ^ w

/-- `a - b - c` modulo 2^w. -/
def diffMod (w a b c : Nat) : Nat := (a + 2 ^ (w + 1) - b - c) % 2 ^ w

/-! ## Frames -/

/-- No register outside the locations has changed. -/
def SameRegs (s t : State) (changed : List Loc) : Prop :=
  (∀ r : Reg16, (∀ l ∈ changed, l.hits16 r = false) → t.reg16 r = s.reg16 r) ∧
  (∀ r : Reg8, (∀ l ∈ changed, l.hits8 r = false) → t.reg8 r = s.reg8 r)

/-- Every byte of memory outside the locations reads as before, and memory is where it was. -/
def SameMemory (s t : State) (changed : List Loc) : Prop :=
  (∀ a : Addr, (∀ l ∈ changed, a ∉ l.bytes) → t.readByte a = s.readByte a) ∧ t.platform = s.platform

/-- The bits of FLAGS outside the mask have not changed. -/
def SameFlags (s t : State) (mask : Word) : Prop := t.flags &&& ~~~mask = s.flags &&& ~~~mask

/-- The segment registers not listed are the same, hidden parts included. -/
def SameSegments (s t : State) (changed : List Sreg) : Prop := ∀ r : Sreg, r ∉ changed → t.seg r = s.seg r

/-- The table and task registers are the same. -/
def SameTables (s t : State) : Prop := t.gdtr = s.gdtr ∧ t.idtr = s.idtr ∧ t.ldtr = s.ldtr ∧ t.tr = s.tr

/-- The run state and the latches of external events are the same. -/
def SameLatches (s t : State) : Prop :=
  t.run = s.run ∧ t.nmiPending = s.nmiPending ∧ t.nmiInService = s.nmiInService ∧ t.mpPending = s.mpPending

/-- MSW, the table and task registers, the run state and the latches of external events are the same. -/
def SameSystem (s t : State) : Prop := t.msw = s.msw ∧ SameTables s t ∧ SameLatches s t

/-- The 80287 is the same. -/
def SameNpx (s t : State) : Prop := t.npx = s.npx ∧ t.npxPresent = s.npxPresent

/-- What an ordinary instruction leaves unchanged: everything but the locations and the flags named, and IP. -/
def Frame (s t : State) (changed : List Loc) (mask : Word) : Prop :=
  SameRegs s t changed ∧ SameMemory s t changed ∧ SameFlags s t mask ∧ SameSegments s t [] ∧ SameSystem s t ∧ SameNpx s t ∧
  t.ioTrace = s.ioTrace

/-- Control goes on with the next instruction: IP, which points past the one that runs, stays. -/
def Sequential (s t : State) : Prop := t.ip = s.ip ∧ t.ipCarry = s.ipCarry

/-- The latches at an ordinary instruction boundary: no prefix, no instruction that goes on, nothing inhibited, a single-step trap
due if TF was set when the instruction began (R940). -/
def Boundary (s t : State) : Prop :=
  t.pfx = .none ∧ t.held = s.held ∧ t.inhibitAll = false ∧ t.inhibitIntr = false ∧
  t.stepPending = (s.tfAtStart && t.run != .shutdown)

/-- The instruction goes on in the next step, which finds IP at its first byte and can recognise an event before it
(43_string.md R480, R561). -/
def GoesOn (i : Instr) (s t : State) : Prop :=
  t.ip = s.istart ∧ t.pfx = .none ∧ t.istart = s.istart ∧ t.tfAtStart = s.tfAtStart ∧
  t.held = some { instr := i, pfx := s.pfx, ip := s.ip, ipCarry := s.ipCarry }

/-- An instruction that changes the locations and flags named and goes on with the next one. -/
def Ordinary (s t : State) (changed : List Loc) (mask : Word) : Prop :=
  Frame s t changed mask ∧ Sequential s t ∧ Boundary s t

/-- How many displacement bytes a ModRM byte calls for (R258). -/
def displacementLength (m : Byte) : Nat :=
  match m.toNat / 64 with
  | 0 => if m.toNat % 8 = 6 then 2 else 0
  | 1 => 1
  | 2 => 2
  | _ => 0

/-- A ModRM byte of which `bad` holds, its displacement and `n` bytes of immediate data after it (R275). -/
def badModrm (n : Nat) (bad : Byte → Bool) : List Byte → Bool
  | m :: rest => bad m && decide (displacementLength m + n ≤ rest.length)
  | [] => false

/-- The reg field of a ModRM byte (R256). -/
def regField (m : Byte) : Nat := m.toNat / 8 % 8

/-- A ModRM byte that names a register, not memory (R256). -/
def namesRegister (m : Byte) : Bool := decide (0xC0 ≤ m.toNat)

/-- The bytes of an encoding that no table lists or that #UD rejects, whatever follows them (R257, R268, R290, R292). -/
def undefinedOpcode : List Byte → Bool
  | 0x0F :: 0x00 :: rest => badModrm 0 (fun m => decide (6 ≤ regField m)) rest
  | 0x0F :: 0x01 :: rest =>
    badModrm 0 (fun m => regField m == 5 || regField m == 7 || (decide (regField m < 4) && namesRegister m)) rest
  | 0x0F :: b :: _ => b ∉ [(0x02 : Byte), 0x03, 0x06]
  | b :: rest =>
    b ∈ [(0x64 : Byte), 0x65, 0x66, 0x67, 0x82, 0xD6, 0xF1] ||
    (b == 0x83 && badModrm 1 (fun m => [1, 4, 6].contains (regField m)) rest) ||
    (b == 0xC6 && badModrm 1 (fun m => regField m != 0) rest) || (b == 0xC7 && badModrm 2 (fun m => regField m != 0) rest) ||
    (b ∈ [(0xC0 : Byte), 0xC1] && badModrm 1 (fun m => regField m == 6) rest) ||
    (b ∈ [(0xD0 : Byte), 0xD1, 0xD2, 0xD3] && badModrm 0 (fun m => regField m == 6) rest) ||
    (b ∈ [(0xF6 : Byte), 0xF7] && badModrm 0 (fun m => regField m == 1) rest) ||
    (b == 0xFE && badModrm 0 (fun m => decide (2 ≤ regField m)) rest) ||
    (b == 0x8C && badModrm 0 (fun m => decide (4 ≤ regField m)) rest) ||
    (b == 0x8E && badModrm 0 (fun m => decide (4 ≤ regField m) || regField m == 1) rest) ||
    (b ∈ [(0x62 : Byte), 0x8D, 0xC4, 0xC5] && badModrm 0 namesRegister rest) ||
    (b == 0xFF && badModrm 0 (fun m => (regField m == 3 || regField m == 5) && namesRegister m) rest)
  | [] => false

/-- The bytes of 8F /1 to /7 or FF /7 (R292). -/
def undefinedStackOpcode : List Byte → Bool
  | b :: rest =>
    (b == 0x8F && badModrm 0 (fun m => regField m != 0) rest) || (b == 0xFF && badModrm 0 (fun m => regField m == 7) rest)
  | [] => false

/-- The bytes of an instruction, or of an encoding that is none, before its last byte (R275). -/
def Unfinished (bs : List Byte) : Prop :=
  undefinedOpcode bs = false ∧ undefinedStackOpcode bs = false ∧
  ∃ rest : List Byte, rest ≠ [] ∧
    ((∃ i : Instr, i.wf = true ∧ encode i = bs ++ rest) ∨ undefinedOpcode (bs ++ rest) = true ∨
      undefinedStackOpcode (bs ++ rest) = true)

/-- The instruction answers a next state of which `P` holds. -/
def Completes (i : Instr) (s : State) (P : State → Prop) : Prop := ∃ t, exec i s = .next t ∧ P t

/-- The instruction raises the exception with nothing changed before it (R903) but the counter of free values. -/
def Raises (i : Instr) (s : State) (x : Exn) : Prop :=
  ∃ n : Nat, exec i s = .next ((takeException x false s { s with free := n }).ended s.tfAtStart .done)

/-- The six arithmetic flags. -/
def arithMask : Word := 0x08D5

/-! ## Destinations and sources of the other rows -/

/-- `n` bits at a physical address. -/
def Loc.at (n : Nat) (a : Addr) : Loc := if n = 8 then .mem8 a else .mem16 a

/-- The location of an `xb` or `xw` operand of `n` bits (R271). -/
def State.locX (s : State) (n : Nat) (off : Word) : Loc := .at n ((s.seg (s.overridden .ds)).addr off.toNat)

/-- The destination of a MOV row that does not write a segment register. -/
def State.movDst (s : State) : MovForm → Loc
  | .ebRb e _ => s.locEb e
  | .ewRw e _ => s.locEw e
  | .rbEb r _ => .reg8 r
  | .rwEw r _ => .reg16 r
  | .ewSreg e _ => s.locEw e
  | .sregEw _ e => s.locEw e
  | .alXb _ => .reg8 .al
  | .axXw _ => .reg16 .ax
  | .xbAl off => s.locX 8 off
  | .xwAx off => s.locX 16 off
  | .rbDb r _ => .reg8 r
  | .rwDw r _ => .reg16 r
  | .ebDb e _ => s.locEb e
  | .ewDw e _ => s.locEw e

/-- What a MOV row moves. -/
def State.movSrc (s : State) : MovForm → Nat
  | .ebRb _ r => (s.reg8 r).toNat
  | .ewRw _ r => (s.reg16 r).toNat
  | .rbEb _ e => s.get (s.locEb e)
  | .rwEw _ e => s.get (s.locEw e)
  | .ewSreg _ r => (s.seg r).sel.toNat
  | .sregEw _ e => s.get (s.locEw e)
  | .alXb off => s.get (s.locX 8 off)
  | .axXw off => s.get (s.locX 16 off)
  | .xbAl _ => (s.reg8 .al).toNat
  | .xwAx _ => s.ax.toNat
  | .rbDb _ v => v.toNat
  | .rwDw _ v => v.toNat
  | .ebDb _ v => v.toNat
  | .ewDw _ v => v.toNat

/-- The memory operands of a MOV row may be accessed. -/
def State.movReady (s : State) : MovForm → Bool
  | .ebRb e _ => s.writable e 1
  | .ewRw e _ => s.writable e 2
  | .rbEb _ e => s.readable e 1
  | .rwEw _ e => s.readable e 2
  | .ewSreg e _ => s.writable e 2
  | .sregEw _ e => s.readable e 2
  | .alXb off => s.mayRead (s.overridden .ds) off.toNat 1
  | .axXw off => s.mayRead (s.overridden .ds) off.toNat 2
  | .xbAl off => s.mayWrite (s.overridden .ds) off.toNat 1
  | .xwAx off => s.mayWrite (s.overridden .ds) off.toNat 2
  | .rbDb _ _ => true
  | .rwDw _ _ => true
  | .ebDb e _ => s.writable e 1
  | .ewDw e _ => s.writable e 2

/-- The place of an INC or DEC row. -/
def State.incDst (s : State) : IncForm → Loc
  | .eb e => s.locEb e
  | .ew e => s.locEw e
  | .rw r => .reg16 r

/-- It may be read and written. -/
def State.incReady (s : State) : IncForm → Bool
  | .eb e => s.readable e 1 && s.writable e 1
  | .ew e => s.readable e 2 && s.writable e 2
  | .rw _ => true

/-- The operand of a one-operand row. -/
def State.unaryLoc (s : State) : UnaryForm → Loc
  | .eb e => s.locEb e
  | .ew e => s.locEw e

/-- It may be read, and written if it is (`writes`). -/
def State.unaryReady (s : State) (writes : Bool) : UnaryForm → Bool
  | .eb e => s.readable e 1 && (!writes || s.writable e 1)
  | .ew e => s.readable e 2 && (!writes || s.writable e 2)

/-- The first operand of a TEST row. -/
def State.testDst (s : State) : TestForm → Loc
  | .ebRb e _ => s.locEb e
  | .ewRw e _ => s.locEw e
  | .alDb _ => .reg8 .al
  | .axDw _ => .reg16 .ax
  | .ebDb e _ => s.locEb e
  | .ewDw e _ => s.locEw e

/-- The second operand of a TEST row. -/
def State.testSrc (s : State) : TestForm → Nat
  | .ebRb _ r => (s.reg8 r).toNat
  | .ewRw _ r => (s.reg16 r).toNat
  | .alDb v => v.toNat
  | .axDw v => v.toNat
  | .ebDb _ v => v.toNat
  | .ewDw _ v => v.toNat

/-- The memory operand of a TEST row may be read. -/
def State.testReady (s : State) : TestForm → Bool
  | .ebRb e _ => s.readable e 1
  | .ewRw e _ => s.readable e 2
  | .alDb _ => true
  | .axDw _ => true
  | .ebDb e _ => s.readable e 1
  | .ewDw e _ => s.readable e 2

/-- The place of a shift or rotate row. -/
def State.shiftLoc (s : State) : ShiftForm → Loc
  | .eb e _ => s.locEb e
  | .ew e _ => s.locEw e

/-- The low five bits of a count (R431). -/
def State.countOf (s : State) : Count → Nat
  | .one => 1
  | .cl => s.cx.toNat % 32
  | .imm v => v.toNat % 32

/-- Its count: the low five bits of 1, CL or the immediate (R431). -/
def State.shiftBy (s : State) : ShiftForm → Nat
  | .eb _ c => s.countOf c
  | .ew _ c => s.countOf c

/-- It may be read and written. -/
def State.shiftReady (s : State) : ShiftForm → Bool
  | .eb e _ => s.readable e 1 && s.writable e 1
  | .ew e _ => s.readable e 2 && s.writable e 2

/-! ## Memory operands within their segment -/

/-- `n` bytes at an offset lie within a segment: up to the limit, above it in an expand-down segment, up to FFFFH in Real Address
Mode (R112, R113, R116). -/
def State.withinSegment (s : State) (S : Sreg) (off n : Nat) : Bool :=
  let r := s.seg S
  if s.pe = false then decide (off + n - 1 ≤ 0xFFFF)
  else if r.access &&& 0x0C = 0x04 then decide (r.limit.toNat < off ∧ off + n - 1 ≤ 0xFFFF)
  else decide (off + n - 1 ≤ r.limit.toNat)

/-- Instructions that read `n` bytes of memory at `m` as their source, or as an operand they only test. -/
def readsOperand (m : Mem) (n : Nat) (i : Instr) : Prop :=
  (n = 1 ∧ ∃ r : Reg8,
    i ∈ [Instr.mov (.rbEb r (.mem m)), .add (.rbEb r (.mem m)), .adc (.rbEb r (.mem m)), .sub (.rbEb r (.mem m)),
      .sbb (.rbEb r (.mem m)), .cmp (.rbEb r (.mem m)), .and (.rbEb r (.mem m)), .or (.rbEb r (.mem m)),
      .xor (.rbEb r (.mem m)), .cmp (.ebRb (.mem m) r), .test (.ebRb (.mem m) r), .mul (.eb (.mem m)),
      .imul (.eb (.mem m)), .div (.eb (.mem m)), .idiv (.eb (.mem m))]) ∨
  (n = 2 ∧ ∃ r : Reg16,
    i ∈ [Instr.mov (.rwEw r (.mem m)), .add (.rwEw r (.mem m)), .adc (.rwEw r (.mem m)), .sub (.rwEw r (.mem m)),
      .sbb (.rwEw r (.mem m)), .cmp (.rwEw r (.mem m)), .and (.rwEw r (.mem m)), .or (.rwEw r (.mem m)),
      .xor (.rwEw r (.mem m)), .cmp (.ewRw (.mem m) r), .test (.ewRw (.mem m) r), .mul (.ew (.mem m)),
      .imul (.ew (.mem m)), .div (.ew (.mem m)), .idiv (.ew (.mem m)), .push (.mw (.mem m)), .jmp (.ew (.mem m)),
      .call (.ew (.mem m))])

/-- Instructions that write `n` bytes of memory at `m`, or read and write them; those whose write protect fault is not
restartable (R904) are not among them. -/
def writesOperand (m : Mem) (n : Nat) (i : Instr) : Prop :=
  (n = 1 ∧ ∃ r : Reg8,
    i ∈ [Instr.mov (.ebRb (.mem m) r), .add (.ebRb (.mem m) r), .sub (.ebRb (.mem m) r), .and (.ebRb (.mem m) r),
      .or (.ebRb (.mem m) r), .xor (.ebRb (.mem m) r), .inc (.eb (.mem m)), .dec (.eb (.mem m)), .neg (.eb (.mem m)),
      .not (.eb (.mem m))]) ∨
  (n = 2 ∧ ∃ r : Reg16,
    i ∈ [Instr.mov (.ewRw (.mem m) r), .add (.ewRw (.mem m) r), .sub (.ewRw (.mem m) r), .and (.ewRw (.mem m) r),
      .or (.ewRw (.mem m) r), .xor (.ewRw (.mem m) r), .inc (.ew (.mem m)), .dec (.ew (.mem m)), .neg (.ew (.mem m)),
      .not (.ew (.mem m)), .smsw (.mem m)])

/-! ## The stack -/

/-- There is room for `k` pushes below SP (R117, R330). -/
def State.stackRoom (s : State) (k : Nat) : Bool := (!s.pe || s.ss.valid) && s.ss.pushRoom s.pe s.sp k

/-- The word at SS:SP + `k`, the offset modulo 2^16. -/
def State.stackAt (s : State) (k : Word) : Loc := .mem16 (s.ss.addr (s.sp + k).toNat)

/-- What a PUSH row pushes: registers as they were before the instruction (R331, R335 to R337). -/
def State.pushSrc (s : State) : PushForm → Nat
  | .rw r => (s.reg16 r).toNat
  | .sreg r => (s.seg r).sel.toNat
  | .mw e => s.get (s.locEw e)
  | .dw v => v.toNat
  | .db v => if v.toNat < 128 then v.toNat else v.toNat + 0xFF00

/-- The memory operand of a PUSH row may be read. -/
def State.pushReady (s : State) : PushForm → Bool
  | .mw e => s.readable e 2
  | _ => true

/-- Where `k` successive pushes from `sp` put their words, the first one highest, offsets modulo 2^16 (R330). -/
def pushLocs (r : SegReg) (sp : Word) (k : Nat) : List Loc :=
  (List.range k).map fun j => .mem16 (r.addr (sp - BitVec.ofNat 16 (2 * j + 2)).toNat)

/-- The words lie where successive pushes from `sp` put them. -/
def State.holdsPushed (t : State) (r : SegReg) (sp : Word) (ws : List Word) : Prop :=
  ∀ j : Nat, j < ws.length → t.readWord (r.addr (sp - BitVec.ofNat 16 (2 * j + 2)).toNat) = ws.getD j 0

/-- A byte lies outside the words that `k` pushes store. -/
def apartFrom (a : Addr) (r : SegReg) (sp : Word) (k : Nat) : Bool := !((pushLocs r sp k).flatMap (·.bytes)).contains a

/-! ## Control transfer -/

/-- An offset may become IP: it lies within the code segment in Protected Mode (R491). -/
def State.inCode (s : State) (off : Word) : Bool := !s.pe || decide (off.toNat ≤ s.cs.limit.toNat)

/-- The condition and displacement of a conditional jump (R500 to R516). -/
def State.condition (s : State) : Instr → Option (Bool × Byte)
  | .jo d => some (s.flag .of, d)
  | .jno d => some (!s.flag .of, d)
  | .jb d => some (s.flag .cf, d)
  | .jae d => some (!s.flag .cf, d)
  | .je d => some (s.flag .zf, d)
  | .jne d => some (!s.flag .zf, d)
  | .jbe d => some (s.flag .cf || s.flag .zf, d)
  | .ja d => some (!s.flag .cf && !s.flag .zf, d)
  | .js d => some (s.flag .sf, d)
  | .jns d => some (!s.flag .sf, d)
  | .jp d => some (s.flag .pf, d)
  | .jnp d => some (!s.flag .pf, d)
  | .jl d => some (s.flag .sf ^^ s.flag .of, d)
  | .jge d => some (!(s.flag .sf ^^ s.flag .of), d)
  | .jle d => some (s.flag .zf || (s.flag .sf ^^ s.flag .of), d)
  | .jg d => some (!s.flag .zf && !(s.flag .sf ^^ s.flag .of), d)
  | .jcxz d => some (decide (s.cx = 0), d)
  | _ => none

/-- CS after a load in Real Address Mode (R38, R495). -/
def RealSegment (r : SegReg) (sel : Word) : Prop :=
  r.sel = sel ∧ r.base.toNat = 16 * sel.toNat ∧ r.limit = 0xFFFF ∧ r.valid = true

/-- The entry of a vector in the interrupt table (R906). -/
def State.vectorEntry (s : State) (v : Byte) : Addr := s.idtr.base + BitVec.ofNat 24 (4 * v.toNat)

/-- The state after an interrupt or exception in Real Address Mode: FLAGS, CS and `ret` pushed, IF and TF clear, CS:IP from the
table (R906). -/
def EnteredReal (s t : State) (v : Byte) (ret : Word) : Prop :=
  t.sp = s.sp - 6 ∧
  (∃ image : Word, image &&& definedFlags = s.flags &&& definedFlags ∧ t.get (s.stackAt (-2)) = image.toNat) ∧
  t.get (s.stackAt (-4)) = s.cs.sel.toNat ∧
  t.get (s.stackAt (-6)) = ret.toNat ∧
  t.flag .ie = false ∧ t.flag .tf = false ∧
  t.ip = t.readWord (s.vectorEntry v) ∧ t.ipCarry = false ∧
  RealSegment t.cs (t.readWord (s.vectorEntry v + 2)) ∧
  SameRegs s t [.reg16 .sp] ∧ SameMemory s t [s.stackAt (-2), s.stackAt (-4), s.stackAt (-6)] ∧ SameFlags s t 0x0300 ∧
  SameSegments s t [.cs] ∧ SameSystem s t ∧ SameNpx s t ∧ t.ioTrace = s.ioTrace

/-- An interrupt can be delivered in Real Address Mode: the entry lies within the table, the three words within the stack
segment (R906, R950). -/
def State.realEntryReady (s : State) (v : Byte) : Bool :=
  !s.pe && decide (4 * v.toNat + 3 ≤ s.idtr.limit.toNat) && decide (s.sp ≠ 1 ∧ s.sp ≠ 3 ∧ s.sp ≠ 5)

/-- The machine is in shutdown at CS:`ip`, everything else as it was (R950). -/
def ShutDownAt (s t : State) (ip : Word) : Prop :=
  t.run = .shutdown ∧ t.ip = ip ∧ SameRegs s t [] ∧ SameMemory s t [] ∧ SameFlags s t 0 ∧ SameSegments s t [] ∧
  SameTables s t ∧ t.msw = s.msw ∧ SameNpx s t ∧ t.ioTrace = s.ioTrace ∧ t.nmiPending = s.nmiPending ∧
  t.nmiInService = s.nmiInService ∧ t.mpPending = s.mpPending

/-! ## Segment registers and transfers in Protected Mode -/

/-- A segment register loaded from a descriptor: its base and limit, and its access byte with the Accessed bit set (R176). -/
def LoadedFrom (r : SegReg) (sel : Word) (d : Desc) : Prop :=
  r.sel = sel ∧ r.base = d.base ∧ r.limit = d.limit ∧ r.access = d.access ||| 1 ∧ r.valid = true

/-- What a transfer within a task leaves unchanged; `changed` is what it stores. -/
def TransferFrame (s t : State) (regs : List Loc) (changed : List Loc) (mask : Word) (segs : List Sreg) : Prop :=
  SameRegs s t regs ∧ SameMemory s t changed ∧ SameFlags s t mask ∧ SameSegments s t segs ∧ SameSystem s t ∧ SameNpx s t ∧
  t.ioTrace = s.ioTrace

/-- A code segment may be entered at the level in force (R601, R626). -/
def State.sameLevel (s : State) (c : Desc) : Prop := if c.conforming then c.dpl ≤ s.cpl else c.dpl = s.cpl

/-- A code segment of an inner level (R607, R626). -/
def State.innerLevel (s : State) (c : Desc) : Prop := c.conforming = false ∧ c.dpl < s.cpl

/-- A selector that names a present code segment which holds the offset `off` (R601, R602, R607). -/
def State.codeAt (s : State) (sel off : Word) (c : Desc) : Prop :=
  isNull sel = false ∧ s.descriptor sel = some c ∧ c.isCode = true ∧ c.present = true ∧ off.toNat ≤ c.limit.toNat

/-- The destination of a far JMP or CALL that names `sel:off`: the code segment itself, or what a call gate names; `csel:coff` is
where it leads, in the segment `c` (R593, R601, R602, R606, R607). -/
def State.leadsTo (s : State) (sel off : Word) (gate : Option Desc) (csel coff : Word) (c : Desc) : Prop :=
  match gate with
  | none => csel = sel ∧ coff = off ∧ s.codeAt sel off c ∧ (c.conforming = true ∨ rpl sel ≤ s.cpl)
  | some g => isNull sel = false ∧ s.descriptor sel = some g ∧ g.type = 4 ∧ s.cpl ≤ g.dpl ∧ rpl sel ≤ g.dpl ∧
      g.present = true ∧ csel = g.selector ∧ coff = g.offset ∧ s.codeAt csel coff c

/-- The far operand of JMP and CALL: in the instruction or in memory (R495, R496). -/
def State.farOperand (s : State) (direct : Word → Word → Instr) (indirect : Mem → Instr) (i : Instr) (off sel : Word) : Prop :=
  i = direct off sel ∨
    ∃ m : Mem, i = indirect m ∧ s.mayRead (s.memSeg m) (s.ea m).toNat 2 = true ∧
      s.mayRead (s.memSeg m) ((s.ea m).toNat + 2) 2 = true ∧
      off = s.readWord ((s.seg (s.memSeg m)).addr (s.ea m).toNat) ∧
      sel = s.readWord ((s.seg (s.memSeg m)).addr ((s.ea m).toNat + 2))

/-- Why a selector does not lead to a code segment that `admits` it: null, outside its table, no such segment, or one that is not
present (R602, R607, R616, R617). -/
def State.codeRefused (s : State) (sel : Word) (admits : Desc → Prop) (x : Exn) : Prop :=
  (isNull sel = true ∧ x = .gp 0) ∨
  (isNull sel = false ∧ s.descriptor sel = none ∧ x = .gp sel) ∨
  ∃ c : Desc, isNull sel = false ∧ s.descriptor sel = some c ∧
    (¬(c.isCode = true ∧ admits c) ∧ x = .gp sel ∨ (c.isCode = true ∧ admits c) ∧ c.present = false ∧ x = .np sel)

/-- A return to the level `p` may enter the code segment (R616, R617). -/
def returnLevel (p : Nat) (c : Desc) : Prop := if c.conforming then c.dpl ≤ p else c.dpl = p

/-- Why a selector is not the stack of the outer level `p` (R617). -/
def State.stackRefused (s : State) (sel : Word) (p : Nat) (x : Exn) : Prop :=
  (isNull sel = true ∧ x = .gp 0) ∨
  (isNull sel = false ∧ s.descriptor sel = none ∧ x = .gp sel) ∨
  ∃ d : Desc, isNull sel = false ∧ s.descriptor sel = some d ∧
    let fits : Prop := rpl sel = p ∧ d.dpl = p ∧ d.writable = true
    (¬fits ∧ x = .gp sel ∨ fits ∧ d.present = false ∧ x = .np sel)

/-- Why the selector in a task gate does not lead to an available task (R603, R610). -/
def State.taskRefused (s : State) (sel : Word) (x : Exn) : Prop :=
  ((isLocal sel = true ∨ s.descriptor sel = none) ∧ x = .gp sel) ∨
  ∃ d : Desc, isLocal sel = false ∧ s.descriptor sel = some d ∧
    (d.type ≠ 1 ∧ x = .gp sel ∨ d.type = 1 ∧ d.present = false ∧ x = .np sel)

/-- Why a far JMP or CALL that names `sel` is not admitted (R593, R600 to R607, R610, R611). -/
def State.farRefused (s : State) (sel : Word) (call : Bool) (x : Exn) : Prop :=
  (isNull sel = true ∧ x = .gp 0) ∨
  (isNull sel = false ∧ s.descriptor sel = none ∧ x = .gp sel) ∨
  ∃ d : Desc, isNull sel = false ∧ s.descriptor sel = some d ∧
    let direct : Prop := s.sameLevel d ∧ (d.conforming = true ∨ rpl sel ≤ s.cpl)
    let system : Prop := d.type = 1 ∨ d.type = 4 ∨ d.type = 5
    let allowed : Prop := s.cpl ≤ d.dpl ∧ rpl sel ≤ d.dpl
    let level (c : Desc) : Prop := if call then c.dpl ≤ s.cpl else s.sameLevel c
    (d.isCode = true ∧ (¬direct ∧ x = .gp sel ∨ direct ∧ d.present = false ∧ x = .np sel)) ∨
    (d.isCode = false ∧ ¬system ∧ x = .gp sel) ∨
    (system ∧ (¬allowed ∧ x = .gp sel ∨ allowed ∧ d.present = false ∧ x = .np sel)) ∨
    (allowed ∧ d.present = true ∧
      (d.type = 4 ∧ s.codeRefused d.selector level x ∨ d.type = 5 ∧ s.taskRefused d.selector x))

/-- The stack that the task state segment gives an inner level `n`: `ss:sp`, with `room` for `k` words in the segment `d` (R592,
R595, R596). -/
def State.innerStackAt (s : State) (n k : Nat) (sp ss : Word) (d : Desc) : Prop :=
  5 + 4 * n ≤ s.tr.limit.toNat ∧ sp = s.readWord (s.tr.base + BitVec.ofNat 24 (2 + 4 * n)) ∧
  ss = s.readWord (s.tr.base + BitVec.ofNat 24 (4 + 4 * n)) ∧ isNull ss = false ∧ s.descriptor ss = some d ∧ rpl ss = n ∧
  d.dpl = n ∧ d.writable = true ∧ d.present = true ∧
  (SegReg.mk ss d.base d.limit (d.access ||| 1) true).pushRoom true sp k = true

/-- The gate of a vector in the IDT (R625). -/
def State.idtGate (s : State) (v : Byte) : Desc := s.descAt (s.idtr.base + BitVec.ofNat 24 (8 * v.toNat))

/-- An interrupt or trap gate of the IDT through which the vector enters the code segment `c`; a software interrupt needs a gate
of its own level (R625, R626). -/
def State.gateOpen (s : State) (v : Byte) (software : Bool) (c : Desc) : Prop :=
  let g := s.idtGate v
  8 * v.toNat + 7 ≤ s.idtr.limit.toNat ∧ (g.type = 6 ∨ g.type = 7) ∧ (software = true → s.cpl ≤ g.dpl) ∧ g.present = true ∧
  s.codeAt g.selector g.offset c

/-- The flags that an entry through a gate leaves: TF and NT clear, and IF too for an interrupt gate (R914). -/
def GateFlags (s t : State) (g : Desc) : Prop :=
  t.flag .tf = false ∧ t.flag .nt = false ∧ t.flag .ie = (s.flag .ie && decide (g.type = 7))

/-- FLAGS as pushed: the defined bits; the reserved ones are open (U2). -/
def ImageOf (image flags : Word) : Prop := image &&& definedFlags = flags &&& definedFlags

/-- The entry of a vector at the same level: FLAGS, CS, `ret` and the error code are pushed, CS:IP comes from the gate (R626). -/
def EnteredSame (s t : State) (v : Byte) (c : Desc) (ret : Word) (code : List Word) : Prop :=
  let g := s.idtGate v
  let k := 3 + code.length
  t.ip = g.offset ∧ t.ipCarry = false ∧ LoadedFrom t.cs (withRpl g.selector s.cpl) c ∧ t.cpl = s.cpl ∧
  t.sp = s.sp - BitVec.ofNat 16 (2 * k) ∧ GateFlags s t g ∧
  (apartFrom (c.addr + 5) s.ss s.sp k = true →
    ∃ image : Word, ImageOf image s.flags ∧ t.holdsPushed s.ss s.sp ([image, s.cs.sel, ret] ++ code)) ∧
  TransferFrame s t [.reg16 .sp] (.mem8 (c.addr + 5) :: pushLocs s.ss s.sp k) 0x4300 [.cs]

/-- The entry of a vector at the inner level of `c`, on the stack `ss:sp` of that level in the segment `d`: the old SS and SP are
pushed before the rest (R627). -/
def EnteredInner (s t : State) (v : Byte) (c : Desc) (ret : Word) (code : List Word) (sp ss : Word) (d : Desc) : Prop :=
  let g := s.idtGate v
  let k := 5 + code.length
  t.ip = g.offset ∧ t.ipCarry = false ∧ LoadedFrom t.cs (withRpl g.selector c.dpl) c ∧ LoadedFrom t.ss ss d ∧ t.cpl = c.dpl ∧
  t.sp = sp - BitVec.ofNat 16 (2 * k) ∧ GateFlags s t g ∧
  (∃ image : Word, ImageOf image s.flags ∧ t.holdsPushed t.ss sp ([s.ss.sel, s.sp, image, s.cs.sel, ret] ++ code)) ∧
  TransferFrame s t [.reg16 .sp] (.mem8 (c.addr + 5) :: .mem8 (d.addr + 5) :: pushLocs t.ss sp k) 0x4300 [.cs, .ss]

/-- Everything an entry at the same level needs. -/
def State.sameReady (s : State) (v : Byte) (software : Bool) (c : Desc) (k : Nat) : Prop :=
  s.gateOpen v software c ∧ s.sameLevel c ∧ s.stackRoom k = true

/-- Everything an entry at an inner level needs. -/
def State.innerReady (s : State) (v : Byte) (software : Bool) (c : Desc) (k : Nat) (sp ss : Word) (d : Desc) : Prop :=
  s.gateOpen v software c ∧ s.innerLevel c ∧ s.innerStackAt c.dpl k sp ss d

/-- DS or ES after a return to level `p`: nulled if its descriptor does not admit that level, else as it was (R618). -/
def KeptForLevel (s : State) (old new : SegReg) (p : Nat) : Prop :=
  let admits : Bool := match s.descriptor old.sel with
    | none => false
    | some d => d.readable && (d.conforming || decide (p ≤ d.dpl ∧ rpl old.sel ≤ d.dpl))
  if isNull old.sel = true ∨ admits = true then new = old else new.sel = 0 ∧ new.valid = false

/-- FLAGS after IRET or POPF takes the image in Protected Mode at the level and IOPL of before it (R630). -/
def FlagsPopped (s t : State) (image : Word) : Prop :=
  t.flags &&& 0x4DD5 = image &&& 0x4DD5 ∧
  t.flags &&& 0x0200 = (if s.cpl ≤ s.iopl then image else s.flags) &&& 0x0200 ∧
  t.flags &&& 0x3000 = (if s.cpl = 0 then image else s.flags) &&& 0x3000

/-! ## Task switches (R641 to R647) -/

/-- The addresses of `n` bytes from an offset of a task state segment. -/
def tssBytes (base : Addr) (off n : Nat) : List Addr := (List.range n).map fun k => base + BitVec.ofNat 24 (off + k)

/-- The access bytes of the descriptors that the four segment registers name. -/
def State.accessBytes (t : State) : List Addr :=
  ([t.es.sel, t.cs.sel, t.ss.sel, t.ds.sel].filterMap t.descAddr).map (· + 5)

/-- The access byte of the descriptor of the task that runs (R642). -/
def State.taskAccess (s : State) : Addr := s.gdtr.base + BitVec.ofNat 24 (tableOffset s.tr.sel) + 5

/-- The two task state segments, the access bytes of their descriptors and those of the incoming segments are apart. -/
def SwitchApart (s t : State) (d : Desc) : Prop :=
  (tssBytes s.tr.base 0 44 ++ tssBytes d.base 0 44 ++ [d.addr + 5, s.taskAccess]).Nodup ∧
  ∀ a ∈ t.accessBytes, a ∉ tssBytes s.tr.base 0 44 ++ tssBytes d.base 0 44 ++ [d.addr + 5, s.taskAccess]

/-- The word of a task state segment. -/
def State.wordIn (s : State) (base : Addr) (off : Nat) : Word := s.readWord (base + BitVec.ofNat 24 off)

/-- The registers of the incoming task as its task state segment at `base` held them (R644, R646). -/
def EntersTask (s t : State) (base : Addr) (src : SwitchSource) : Prop :=
  let w := s.wordIn base
  t.ip = w 14 ∧ t.ipCarry = false ∧ t.flags &&& 0x3FD5 = w 16 &&& 0x3FD5 ∧
  t.flag .nt = (match src with | .jmp => false | .call => true | .iret => (w 16).getLsbD 14) ∧
  t.ax = w 18 ∧ t.cx = w 20 ∧ t.dx = w 22 ∧ t.bx = w 24 ∧ t.sp = w 26 ∧ t.bp = w 28 ∧ t.si = w 30 ∧ t.di = w 32 ∧
  t.es.sel = w 34 ∧ t.cs.sel = w 36 ∧ t.ss.sel = w 38 ∧ t.ds.sel = w 40 ∧ t.ldtr.sel = w 42 ∧
  t.ldtr.valid = !isNull (w 42)

/-- The image of the outgoing task in its task state segment, with `ip` as the IP it goes on at (R642). -/
def LeavesTask (s t : State) (ip : Word) (src : SwitchSource) : Prop :=
  let w := t.wordIn s.tr.base
  w 14 = ip ∧ w 16 &&& 0x3FD5 = s.flags &&& 0x3FD5 ∧ (w 16).getLsbD 14 = (s.flag .nt && decide (src ≠ .iret)) ∧
  w 18 = s.ax ∧ w 20 = s.cx ∧ w 22 = s.dx ∧ w 24 = s.bx ∧ w 26 = s.sp ∧ w 28 = s.bp ∧ w 30 = s.si ∧ w 32 = s.di ∧
  w 34 = s.es.sel ∧ w 36 = s.cs.sel ∧ w 38 = s.ss.sel ∧ w 40 = s.ds.sel

/-! ## The 80287 -/

/-- An ESC is executed: EM and TS clear, an 80287 fitted, not busy, no unmasked exception pending (R560, R771). -/
def State.npxReady (s : State) : Bool := !s.em && !s.ts && s.npxPresent && !s.npx.busy && !s.npx.es

/-- An ESC of the no-wait group is executed: EM and TS clear, an 80287 fitted (R560, R771). -/
def State.npxReachable (s : State) : Bool := !s.em && !s.ts && s.npxPresent

/-- What an ESC that moves no data to the CPU leaves unchanged in it. -/
def SameCpu (s t : State) (changed : List Loc) : Prop :=
  SameRegs s t changed ∧ SameMemory s t changed ∧ t.flags = s.flags ∧ SameSegments s t [] ∧ SameSystem s t ∧
  t.npxPresent = s.npxPresent ∧ t.ioTrace = s.ioTrace ∧ Sequential s t ∧ Boundary s t

/-- The exception pointers after a numeric instruction: the address of its first byte, and its opcode (R727). -/
def Points (s t : State) (i : Instr) : Prop :=
  t.npx.ip.sel = s.cs.sel ∧ t.npx.ip.off = s.istart ∧
  t.npx.ip.real.toNat = (16 * s.cs.sel.toNat + s.istart.toNat) % 2 ^ 20 ∧
  t.npx.opcode = escOpcode i

/-- The operand pointer after a numeric instruction with a memory operand (R727). -/
def PointsOperand (s t : State) (m : Mem) : Prop :=
  t.npx.op.sel = (s.seg (s.memSeg m)).sel ∧ t.npx.op.off = s.ea m ∧
  t.npx.op.real.toNat = (16 * (s.seg (s.memSeg m)).sel.toNat + (s.ea m).toNat) % 2 ^ 20

/-- The 80287's mode and BUSY are the same. -/
def SameMode (s t : State) : Prop := t.npx.pm = s.npx.pm ∧ t.npx.busy = s.npx.busy

/-- The status bits in the mask are all that can differ. -/
def SameStatus (s t : State) (mask : Word) : Prop := t.npx.status &&& ~~~mask = s.npx.status &&& ~~~mask

/-- The register stack after a push of `v` (R716). -/
def Pushed (n k : Npx) (v : Temp) : Prop :=
  k.top = n.top - 1 ∧ k.st 0 = v ∧ k.isEmpty 0 = false ∧
  ∀ j : BitVec 3, j ≠ 0 → k.st j = n.st (j - 1) ∧ k.isEmpty j = n.isEmpty (j - 1)

/-- The register stack after `ST(i)` became `v`. -/
def Replaced (n k : Npx) (i : BitVec 3) (v : Temp) : Prop :=
  k.top = n.top ∧ k.st i = v ∧ k.isEmpty i = false ∧
  ∀ j : BitVec 3, j ≠ i → k.st j = n.st j ∧ k.isEmpty j = n.isEmpty j

/-- The register stack after a pop (R716): the register popped keeps its contents and is Empty. -/
def Popped (n k : Npx) : Prop :=
  k.top = n.top + 1 ∧ k.isEmpty 7 = true ∧
  (∀ j : BitVec 3, k.st j = n.st (j + 1)) ∧ ∀ j : BitVec 3, j ≠ 7 → k.isEmpty j = n.isEmpty (j + 1)

/-- The register stack is the same. -/
def SameStack (n k : Npx) : Prop := k.top = n.top ∧ k.regs = n.regs ∧ k.empty = n.empty

/-- A memory operand of `n` words may be read by the 80287: the first word by the segment's rules, the others within its limit
(R560, R773). -/
def State.operandIn (s : State) (m : Mem) (n : Nat) : Bool :=
  s.mayRead (s.memSeg m) (s.ea m).toNat 2 &&
    (List.range n).all fun k => s.transferable (s.memSeg m) ((s.ea m).toNat + 2 * k)

/-- The same for one that is written. -/
def State.operandOut (s : State) (m : Mem) (n : Nat) : Bool :=
  s.mayWrite (s.memSeg m) (s.ea m).toNat 2 &&
    (List.range n).all fun k => s.transferable (s.memSeg m) ((s.ea m).toNat + 2 * k)

/-- The address of word `k` of a memory operand. -/
def State.operandAddr (s : State) (m : Mem) (k : Nat) : Addr :=
  (s.seg (s.memSeg m)).addr ((s.ea m).toNat + 2 * k)

/-- The number that `n` words hold, lowest word first (R740). -/
def State.imageAt (s : State) (addr : Nat → Addr) (n : Nat) : Nat := imageOf ((List.range n).map fun k => s.readWord (addr k))

/-- The number the `n` words of a memory operand hold. -/
def State.operandImage (s : State) (m : Mem) (n : Nat) : Nat := s.imageAt (s.operandAddr m) n

/-- The bytes of a memory operand of `n` words. -/
def State.operandLocs (s : State) (m : Mem) (n : Nat) : List Loc :=
  (List.range n).map fun k => .mem16 (s.operandAddr m k)

/-- Two values are equal as numbers, signs of zero included. -/
def Value.same (a b : Value) : Prop :=
  a.neg = b.neg ∧ a.mant * 2 ^ (a.exp - min a.exp b.exp).toNat = b.mant * 2 ^ (b.exp - min a.exp b.exp).toNat

/-- A value is an integer. -/
def Value.isInt (a : Value) (x : Int) : Prop :=
  ∃ m : Nat, a.same { neg := a.neg, mant := m, exp := 0 } ∧ x = if a.neg then -(m : Int) else m

/-- `q * 2^g` is the value rounded to a multiple of `2^g`: less than one unit away, on the side that the mode asks for, nearest
within half a unit, ties to even; `inexact` tells whether it differs (R721). -/
def RoundsTo (rc : Rounding) (v : Value) (q : Nat) (g : Int) (inexact : Bool) : Prop :=
  let h := min g v.exp
  let x := v.mant * 2 ^ (v.exp - h).toNat
  let y := q * 2 ^ (g - h).toNat
  let u := 2 ^ (g - h).toNat
  y < x + u ∧ x < y + u ∧ inexact = decide (x ≠ y) ∧
  match rc with
  | .nearest => 2 * y ≤ 2 * x + u ∧ 2 * x ≤ 2 * y + u ∧ (2 * y = 2 * x + u ∨ 2 * x = 2 * y + u → q % 2 = 0)
  | .chop => y ≤ x
  | .down => if v.neg then x ≤ y else y ≤ x
  | .up => if v.neg then y ≤ x else x ≤ y

/-- The magnitude of the value plus one half, chopped, is `q`; `inexact` tells whether the magnitude differs from it (R747, D54). -/
def RoundsHalfUp (v : Value) (q : Nat) (inexact : Bool) : Prop :=
  let x := v.mant * 2 ^ v.exp.toNat
  let u := 2 ^ (-v.exp).toNat
  2 * q * u ≤ 2 * x + u ∧ 2 * x + u < 2 * (q + 1) * u ∧ inexact = decide (x ≠ q * u)

/-- The signed significand of a value over the power of two `2^g`, which its exponent is not below. -/
def Value.over (v : Value) (g : Int) : Int :=
  (if v.neg then -1 else 1) * (v.mant : Int) * 2 ^ (v.exp - g).toNat

/-- The masked response to overflow is an infinity (R756, R764). -/
def overflowIsInfinite (rc : Rounding) (neg : Bool) : Bool :=
  match rc with
  | .nearest => true
  | .chop => true
  | .up => !neg
  | .down => neg

/-- The status bits that are set: those of before and `bits`; TOP may differ. -/
def StatusBits (s t : State) (bits : Word) : Prop := t.npx.status &&& 0xC7FF = (s.npx.status ||| bits) &&& 0xC7FF

/-- A class whose operands call for no D and are no unnormals. -/
def plain (t : Temp) : Bool := classOf t != .denormal && classOf t != .unnormal

/-! ## Operands of the numeric instructions -/

/-- Where the second operand of a numeric instruction is: a stack register, a memory operand of `n` words holding the value
`v`, or a constant. -/
inductive NumSource where
  | reg (i : BitVec 3)
  | mem (m : Mem) (n : Nat) (v : Temp)
  | const (v : Temp)
  deriving DecidableEq, Repr

/-- Its value. -/
def State.sourceValue (s : State) : NumSource → Temp
  | .reg i => s.npx.st i
  | .mem _ _ v => v
  | .const v => v

/-- It can be read: a register that is not Empty, a memory operand within its segment. -/
def State.sourceReady (s : State) : NumSource → Bool
  | .reg i => !s.npx.isEmpty i
  | .mem m n _ => s.operandIn m n
  | .const _ => true

/-- The memory operand, if there is one. -/
def NumSource.operand : NumSource → Option Mem
  | .mem m _ _ => some m
  | _ => none

/-- A short or long real in memory, `n` words. -/
def State.realAt (s : State) (f : RealFormat) (m : Mem) (n : Nat) : NumSource := .mem m n (f.widen (s.operandImage m n))

/-- A two's complement integer of `n` words in memory. -/
def State.integerAt (s : State) (m : Mem) (n : Nat) : NumSource := .mem m n (integerTemp (16 * n) (s.operandImage m n))

/-- A basic operation: the destination register holds one operand and takes the result. -/
structure ArithCase where
  op : ArithOp
  reversed : Bool
  dst : BitVec 3
  src : NumSource
  pops : Bool
  deriving DecidableEq, Repr

/-- The rows of FADD, FMUL, FSUB, FSUBR, FDIV, FDIVR (R814). -/
def State.arithFormCase (s : State) (op : ArithOp) (reversed : Bool) : ArithForm → ArithCase
  | .m32 m => ⟨op, reversed, 0, s.realAt shortReal m 2, false⟩
  | .m64 m => ⟨op, reversed, 0, s.realAt longReal m 4, false⟩
  | .stSti i => ⟨op, reversed, 0, .reg i, false⟩
  | .stiSt i => ⟨op, reversed, i, .reg 0, false⟩

/-- The rows with an integer in memory (R814). -/
def State.arithIntCase (s : State) (op : ArithOp) (reversed : Bool) : IntForm → ArithCase
  | .m16 m => ⟨op, reversed, 0, s.integerAt m 1, false⟩
  | .m32 m => ⟨op, reversed, 0, s.integerAt m 2, false⟩

/-- The eighteen basic arithmetic instructions (R814 to R832). -/
def State.arithCase (s : State) : Instr → Option ArithCase
  | .fadd f => some (s.arithFormCase .add false f)
  | .faddp i => some ⟨.add, false, i, .reg 0, true⟩
  | .fiadd f => some (s.arithIntCase .add false f)
  | .fmul f => some (s.arithFormCase .mul false f)
  | .fmulp i => some ⟨.mul, false, i, .reg 0, true⟩
  | .fimul f => some (s.arithIntCase .mul false f)
  | .fsub f => some (s.arithFormCase .sub false f)
  | .fsubp i => some ⟨.sub, false, i, .reg 0, true⟩
  | .fisub f => some (s.arithIntCase .sub false f)
  | .fsubr f => some (s.arithFormCase .sub true f)
  | .fsubrp i => some ⟨.sub, true, i, .reg 0, true⟩
  | .fisubr f => some (s.arithIntCase .sub true f)
  | .fdiv f => some (s.arithFormCase .div false f)
  | .fdivp i => some ⟨.div, false, i, .reg 0, true⟩
  | .fidiv f => some (s.arithIntCase .div false f)
  | .fdivr f => some (s.arithFormCase .div true f)
  | .fdivrp i => some ⟨.div, true, i, .reg 0, true⟩
  | .fidivr f => some (s.arithIntCase .div true f)
  | _ => none

/-- The exact result of an operation on two finite values; a zero sum takes its sign from the rounding mode (R752, R803). -/
def ArithOp.exact (op : ArithOp) (a b : Value) (down : Bool) : Value :=
  match op with
  | .add => a.add b down
  | .sub => a.add { b with neg := !b.neg } down
  | .mul => a.mul b
  | .div => a.div b

/-- The rows of FCOM and FCOMP. -/
def State.compareFormSource (s : State) : RealForm → NumSource
  | .m32 m => s.realAt shortReal m 2
  | .m64 m => s.realAt longReal m 4
  | .st i => .reg i

/-- The rows of FICOM and FICOMP. -/
def State.compareIntSource (s : State) : IntForm → NumSource
  | .m16 m => s.integerAt m 1
  | .m32 m => s.integerAt m 2

/-- The comparisons: what ST is compared with, and how many pops follow (R840 to R845, R885). -/
def State.compareCase (s : State) : Instr → Option (NumSource × Nat)
  | .fcom f => some (s.compareFormSource f, 0)
  | .fcomp f => some (s.compareFormSource f, 1)
  | .fcompp => some (.reg 1, 2)
  | .ficom f => some (s.compareIntSource f, 0)
  | .ficomp f => some (s.compareIntSource f, 1)
  | .ftst => some (.const 0, 0)
  | .fcomAlias2 i => some (.reg i, 0)
  | .fcompAlias3 i => some (.reg i, 1)
  | .fcompAlias5 i => some (.reg i, 1)
  | _ => none

/-- A numeric or control instruction that moves `n` words from memory at `m` to the 80287 (R773); `numeric`: it records the
pointers. -/
def State.movesIn (s : State) (i : Instr) (m : Mem) (n : Nat) (numeric : Bool) : Prop :=
  (numeric = true ∧
    ((∃ (c : ArithCase) (v : Temp), s.arithCase i = some c ∧ c.src = .mem m n v) ∨
      (∃ (v : Temp) (k : Nat), s.compareCase i = some (.mem m n v, k)) ∨
      (i, n) ∈ [(Instr.fld (.m32 m), 2), (.fld (.m64 m), 4), (.fld (.m80 m), 5), (.fild (.m32 m), 2), (.fild (.m64 m), 4),
        (.fbld m, 5)])) ∨
  (numeric = false ∧ (i, n) ∈ [(Instr.fldenv m, 7), (.frstor m, 47)])

/-- The words of a memory operand from the `k`-th on leave its segment, `0 < k < n`; those before lie in it (R773). -/
def State.leavesSegment (s : State) (m : Mem) (n k : Nat) : Prop :=
  0 < k ∧ k < n ∧ s.transferable (s.memSeg m) ((s.ea m).toNat + 2 * k) = false ∧
  ∀ j : Nat, j < k → 0 < j → s.transferable (s.memSeg m) ((s.ea m).toNat + 2 * j) = true

/-- A segment overrun has been latched: interrupt 9 is due, the 80287 stays busy, and the rest of the CPU is as it was (R773,
R924). -/
def Overran (s t : State) (changed : List Loc) : Prop :=
  t.mpPending = true ∧ t.npx.busy = true ∧ t.npx.pm = s.npx.pm ∧ SameRegs s t [] ∧ SameMemory s t changed ∧ t.flags = s.flags ∧
  SameSegments s t [] ∧ SameTables s t ∧ t.msw = s.msw ∧ t.run = s.run ∧ t.nmiPending = s.nmiPending ∧
  t.nmiInService = s.nmiInService ∧ t.npxPresent = s.npxPresent ∧ t.ioTrace = s.ioTrace ∧ Sequential s t ∧ Boundary s t

/-- A normal number or a true zero. -/
def normalOrZero (t : Temp) : Bool := classOf t == .normal || classOf t == .zero

/-- What a numeric instruction leaves unchanged outside the register stack and the status bits of the mask, and the exception
pointers it records; memory and CPU registers change only at the locations given. -/
def Numeric (s t : State) (i : Instr) (operand : Option Mem) (changed : List Loc) (mask : Word) : Prop :=
  SameStatus s t mask ∧ t.npx.control = s.npx.control ∧ SameMode s t ∧ Points s t i ∧
  (∀ m : Mem, operand = some m → PointsOperand s t m) ∧ SameCpu s t changed

/-- What a control instruction leaves unchanged in the 80287: the exception pointers. -/
def SamePointers (s t : State) : Prop :=
  t.npx.ip = s.npx.ip ∧ t.npx.op = s.npx.op ∧ t.npx.opcode = s.npx.opcode ∧ t.npx.form = s.npx.form

/-- An encoding whose first byte is D8H to DFH (R288). -/
def isEsc (i : Instr) : Bool := (encode i).headD 0 &&& 0xF8 == 0xD8

end Sys2Proof.Machine
end

