-- ==== Sys2Proof/Certificates/Slice0/Obligations.lean ====
section
/-! DEFINITION. The statements for the provers. Each docstring names the rules of spec/ it rests on, and the log entry of
notes/assumptions/ where it rests on a choice of the model. -/

open Sys2Proof Sys2Proof.Machine

/-! ## Reset, invariants, the step -/

/-- The reset values the spec gives, in the state after reset and after a RESET input in every state, whatever the machine was
doing: registers, segment registers that are valid, no latch set, nothing held over; the 80287 is initialized with it, and where
there is memory stays (R46, R49, R980, R981, R736). That control bit 7 is IEM, and 1 then, is log 19 (G5). -/
def Obligations.ResetGivesSpecifiedValues : Prop :=
  let specified (t : State) : Prop :=
    t.ip = 0xFFF0 ∧ t.ipCarry = false ∧ t.flags = 0x0002 ∧ t.msw = 0xFFF0 ∧
    t.cs.sel = 0xF000 ∧ t.cs.base = 0xFF0000 ∧ t.cs.limit = 0xFFFF ∧
    (∀ r : Sreg, r ≠ .cs → (t.seg r).sel = 0 ∧ (t.seg r).base = 0 ∧ (t.seg r).limit = 0xFFFF) ∧
    (∀ r : Sreg, (t.seg r).valid = true) ∧ t.idtr = { base := 0, limit := 0x03FF } ∧ t.run = .running ∧
    t.inhibitAll = false ∧ t.inhibitIntr = false ∧ t.nmiPending = false ∧ t.nmiInService = false ∧ t.mpPending = false ∧
    t.stepPending = false ∧ t.pfx = .none ∧ t.held = none ∧ t.stale = []
  specified State.reset ∧
  (∀ s : State, s.input.reset = true →
    ∃ t, step s = .next t ∧ specified t ∧ t.platform = s.platform ∧ t.npxPresent = s.npxPresent ∧
      t.npx.control &&& 0x1FBF = 0x03BF ∧ t.npx.empty = 0xFF ∧ t.npx.top = 0 ∧ t.npx.pm = false ∧
      t.npx.status &&& 0x003F = 0)

/-- The state after reset meets the invariant (logs 2, 4, 9, 51, 24: the values the model chose are among those it holds of). -/
def Obligations.ResetMeetsInvariant : Prop := State.reset.Inv

/-- Every step from a state that meets the invariant leads to one that does, whatever the instruction, exception or event. The
canonical form of memory and the image of the reserved FLAGS bits are the model's (logs 4, 17), as are MSW bits 15 to 4 (log 51),
the status bits of the 80287 that are not held (log 24) and what an instruction that goes on is held in (log 1). -/
def Obligations.StepKeepsInvariant : Prop := ∀ s t : State, s.Inv → step s = .next t → t.Inv

/-- No instruction, exception, event or task switch leaves Protected Mode: only RESET does (R667, R49). -/
def Obligations.OnlyResetLeavesProtectedMode : Prop :=
  ∀ s t : State, s.pe = true → s.input.reset = false → step s = .next t → t.pe = true

/-- At an instruction boundary with no event to recognise, and no RESET, a step runs exactly the instruction that the bytes at
CS:IP decode to, IP having been moved past it; after a prefix it does so without recognising an event, within the ten bytes of an
instruction, but a repetition whose CX is not 0, and WAIT past its test for #NM, recognise one first, with the offset of the first
prefix; and an instruction that goes on is run again without being fetched (R19, R42, R251, R275, R480, R561, R935). Bytes that are
no instruction raise #UD, but 8F /1 to /7 and FF /7 exception 13; so does an eleventh byte #UD, and a byte that lies beyond the
code segment before the instruction ends exception 13, #GP(0) in Protected Mode; nothing has changed then (R118, R251, R290, R292).
The bytes are those of memory: none was overwritten since the last control transfer (log 6). While a locked MOVS, INS or OUTS goes
on the writes of other bus masters wait (R136, R483). The steps are those of log 1, those writes made before each (log 61), the
order of the tests of an eleventh byte D13 (log 57). -/
def Obligations.StepRunsDecodedInstruction : Prop :=
  ∀ s : State, let u := s.sampled
    s.input.reset = false → s.run = .running →
    let starts (v : State) : Prop := (s.pfx.count = 0 ∧ s.held = none ∧ u.boundary s.input = none ∧ v = u.begin) ∨
      (s.pfx.count ≠ 0 ∧ v = u)
    let code (bs : List Byte) : Prop := u.stale = [] ∧ ∀ k : Nat, k < bs.length →
      u.codeInLimit (u.fetchOffset + k) = true ∧ u.readByte (u.cs.addr (u.fetchOffset + k)) = bs.getD k 0
    (∀ (i : Instr) (v : State), i.wf = true → code (encode i) → starts v → s.pfx.count + (encode i).length ≤ 10 →
      let w := v.advanced (encode i).length
      let looks : Prop := s.pfx.count ≠ 0 ∧ (i = .wait ∧ (s.mp = false ∨ s.ts = false) ∨
        i ∈ [Instr.movsb, .movsw, .cmpsb, .cmpsw, .scasb, .scasw, .lodsb, .lodsw, .stosb, .stosw, .insb, .insw, .outsb, .outsw] ∧
          s.pfx.rep ≠ none ∧ s.cx ≠ 0)
      let event : Option State := State.boundary { w with ip := s.istart, ipCarry := false, pfx := .none } s.input
      (¬looks ∨ event = none → step s = exec i w) ∧ ∀ t : State, looks → event = some t → step s = .next t) ∧
    (∀ (bs : List Byte) (v : State), code bs → starts v →
      let raised (x : Exn) : Prop :=
        ∃ n : Nat, step s = .next ((takeException x false v { v with free := n }).ended v.tfAtStart .done)
      let beyond : Exn := if s.pe then .gp 0 else ⟨13, none⟩
      (undefinedOpcode bs = true → s.pfx.count + bs.length ≤ 10 → raised .ud) ∧
      (undefinedStackOpcode bs = true → s.pfx.count + bs.length ≤ 10 → raised beyond) ∧
      (Unfinished bs → s.pfx.count + bs.length = 10 → raised .ud) ∧
      (Unfinished bs → s.pfx.count + bs.length < 10 → u.codeInLimit (u.fetchOffset + bs.length) = false → raised beyond)) ∧
    (∀ h : Held, s.pfx.count = 0 → s.held = some h → u.boundary s.input = none →
      step s = exec h.instr { u with ip := h.ip, ipCarry := h.ipCarry, pfx := h.pfx, held := none } ∧
      (h.pfx.lock = true → h.instr ∈ [Instr.movsb, .movsw, .insb, .insw, .outsb, .outsw] →
        u.mem = s.mem ∧ u.input.writes = s.input.writes ++ (s.inputs.tail.head?.getD .none).writes))

/-- Decoding the encoding of a well-formed instruction gives it back, and consumes exactly its bytes (R250 to R300). -/
def Obligations.DecodeInvertsEncode : Prop :=
  ∀ (i : Instr) (rest : List Byte), i.wf = true → decode (encode i ++ rest) = .ok (i, rest)

/-- Words written out from the spec's encoding tables decode to the instructions they stand for, one from each family
(R256 to R263, R280 to R288, R885). -/
def Obligations.SpecifiedWordsDecode : Prop :=
  decode [0x03, 0x5E, 0xFE] = .ok (.add (.rwEw .bx (.mem (.disp8 .bp 0xFE))), []) ∧
  decode [0x8E, 0xD8] = .ok (.mov (.sregEw .ds (.reg .ax)), []) ∧
  decode [0xC1, 0xE0, 0x04] = .ok (.shl (.ew (.reg .ax) (.imm 4)), []) ∧
  decode [0xA5] = .ok (.movsw, []) ∧
  decode [0x9A, 0x34, 0x12, 0x00, 0x20] = .ok (.call (.far 0x1234 0x2000), []) ∧
  decode [0xC8, 0x10, 0x00, 0x01] = .ok (.enter 0x0010 0x01, []) ∧
  decode [0x0F, 0x01, 0x16, 0x00, 0x80] = .ok (.lgdt (.direct 0x8000), []) ∧
  decode [0xD8, 0x04] = .ok (.fadd (.m32 (.ind .si)), []) ∧
  decode [0xD9, 0xE8] = .ok (.fld1, []) ∧
  decode [0x0F, 0x05] = .error .undefined

/-! ## Memory operands -/

/-- A memory operand that does not lie within its segment raises the limit exception: interrupt 13 in Real Address Mode, #SS(0)
through SS, else #GP(0); through a register that is not valid #GP(0). One within a segment that is not writable raises #GP(0)
where the instruction writes it, and so does an execute-only one where it reads. Nothing has changed then (R111 to R116, R119,
R370, R420, R903). -/
def Obligations.OperandOutsideSegmentFaults : Prop :=
  ∀ (i : Instr) (m : Mem) (n : Nat) (s : State),
    let S := s.memSeg m
    let off := (s.ea m).toNat
    (readsOperand m n i ∨ writesOperand m n i → s.pe = false ∨ (s.seg S).valid = true → s.withinSegment S off n = false →
      Raises i s (if s.pe then (if S = .ss then .ss 0 else .gp 0) else ⟨13, none⟩)) ∧
    (readsOperand m n i ∨ writesOperand m n i → s.pe = true → (s.seg S).valid = false → Raises i s (.gp 0)) ∧
    (writesOperand m n i → s.pe = true → (s.seg S).valid = true → s.withinSegment S off n = true →
      (s.seg S).isCode = true ∨ (s.seg S).rw = false → Raises i s (.gp 0)) ∧
    (readsOperand m n i → s.pe = true → (s.seg S).valid = true → s.withinSegment S off n = true →
      (s.seg S).isCode = true → (s.seg S).rw = false → Raises i s (.gp 0))

/-! ## Binary arithmetic -/

/-- ADD and ADC: the sum, with CF as carry in for ADC; all six flags from it; nothing else (R372, R373, R15). -/
def Obligations.AddAndAdcStoreSum : Prop :=
  ∀ (i : Instr) (f : AluForm) (c : Nat) (s : State),
    (i = .add f ∧ c = 0) ∨ (i = .adc f ∧ c = (s.flag .cf).toNat) →
    s.plainMemory = true → s.aluReady true f = true →
    let d := s.aluDst f
    let r := sumMod d.bits (s.get d) (s.aluSrc f) c
    Completes i s fun t =>
      t.get d = r ∧ ResultFlags t d.bits r ∧ AddFlags t d.bits (s.get d) (s.aluSrc f) c ∧ Ordinary s t [d] arithMask

/-- SUB and SBB: the difference, with CF as borrow in for SBB; all six flags from it; nothing else. CMP: the flags of SUB, and nothing
stored (R374, R375, R376, R15). -/
def Obligations.SubtractionsSetFlags : Prop :=
  (∀ (i : Instr) (f : AluForm) (c : Nat) (s : State),
    (i = .sub f ∧ c = 0) ∨ (i = .sbb f ∧ c = (s.flag .cf).toNat) →
    s.plainMemory = true → s.aluReady true f = true →
    let d := s.aluDst f
    let r := diffMod d.bits (s.get d) (s.aluSrc f) c
    Completes i s fun t =>
      t.get d = r ∧ ResultFlags t d.bits r ∧ SubFlags t d.bits (s.get d) (s.aluSrc f) c ∧ Ordinary s t [d] arithMask) ∧
  (∀ (f : AluForm) (s : State), s.aluReady false f = true →
    let d := s.aluDst f
    Completes (.cmp f) s fun t =>
      ResultFlags t d.bits (diffMod d.bits (s.get d) (s.aluSrc f) 0) ∧
      SubFlags t d.bits (s.get d) (s.aluSrc f) 0 ∧ Ordinary s t [] arithMask)

/-- INC and DEC: one more or less, CF left alone. NEG subtracts from zero, with the flags of that; NOT complements and changes no
flag (R377, R378, R379, R425). -/
def Obligations.IncDecNegNotReplaceOperand : Prop :=
  (∀ (f : IncForm) (s : State), s.plainMemory = true → s.incReady f = true →
    let d := s.incDst f
    let up := sumMod d.bits (s.get d) 1 0
    let down := diffMod d.bits (s.get d) 1 0
    (Completes (.inc f) s fun t =>
      t.get d = up ∧ ResultFlags t d.bits up ∧ t.flag .af = decide (s.get d % 16 = 15) ∧
      t.flag .of = decide (s.get d = 2 ^ (d.bits - 1) - 1) ∧ Ordinary s t [d] 0x08D4) ∧
    Completes (.dec f) s fun t =>
      t.get d = down ∧ ResultFlags t d.bits down ∧ t.flag .af = decide (s.get d % 16 = 0) ∧
      t.flag .of = decide (s.get d = 2 ^ (d.bits - 1)) ∧ Ordinary s t [d] 0x08D4) ∧
  (∀ (f : UnaryForm) (s : State), s.plainMemory = true → s.unaryReady true f = true →
    let d := s.unaryLoc f
    let n := diffMod d.bits 0 (s.get d) 0
    (Completes (.neg f) s fun t =>
      t.get d = n ∧ ResultFlags t d.bits n ∧ SubFlags t d.bits 0 (s.get d) 0 ∧ Ordinary s t [d] arithMask) ∧
    Completes (.not f) s fun t => t.get d + s.get d = 2 ^ d.bits - 1 ∧ Ordinary s t [d] 0)

/-- MUL and IMUL: the full product in AX, or DX:AX; with an immediate, its low word in the register; CF and OF tell whether it fits
the lower half; SF, ZF, AF and PF may change (R380, R381, R382). -/
def Obligations.MultiplicationsGiveProduct : Prop :=
  (∀ s : State,
    (∀ e : Eb, s.readable e 1 = true →
      let p := (s.reg8 .al).toNat * s.get (s.locEb e)
      Completes (.mul (.eb e)) s fun t =>
        t.ax.toNat = p ∧ t.flag .cf = decide (256 ≤ p) ∧ t.flag .of = decide (256 ≤ p) ∧
        Ordinary s t [.reg16 .ax] arithMask) ∧
    ∀ e : Ew, s.readable e 2 = true →
      let p := s.ax.toNat * s.get (s.locEw e)
      Completes (.mul (.ew e)) s fun t =>
        65536 * t.dx.toNat + t.ax.toNat = p ∧ t.flag .cf = decide (65536 ≤ p) ∧ t.flag .of = decide (65536 ≤ p) ∧
        Ordinary s t [.reg16 .ax, .reg16 .dx] arithMask) ∧
  (∀ s : State,
    (∀ e : Eb, s.readable e 1 = true →
      let p := signedOf 8 (s.reg8 .al).toNat * signedOf 8 (s.get (s.locEb e))
      Completes (.imul (.eb e)) s fun t =>
        t.ax.toInt = p ∧ t.flag .cf = outOfRange 8 p ∧ t.flag .of = outOfRange 8 p ∧
        Ordinary s t [.reg16 .ax] arithMask) ∧
    (∀ e : Ew, s.readable e 2 = true →
      let p := signedOf 16 s.ax.toNat * signedOf 16 (s.get (s.locEw e))
      Completes (.imul (.ew e)) s fun t =>
        (t.dx ++ t.ax : BitVec 32).toInt = p ∧ t.flag .cf = outOfRange 16 p ∧ t.flag .of = outOfRange 16 p ∧
        Ordinary s t [.reg16 .ax, .reg16 .dx] arithMask) ∧
    ∀ (i : Instr) (r : Reg16) (e : Ew) (b : Int),
      (∃ v : Word, i = .imul (.rwEwDw r e v) ∧ b = v.toInt) ∨ (∃ v : Byte, i = .imul (.rwEwDb r e v) ∧ b = v.toInt) →
      s.readable e 2 = true →
      let p := signedOf 16 (s.get (s.locEw e)) * b
      Completes i s fun t =>
        ((t.reg16 r).toNat : Int) = p % 65536 ∧ t.flag .cf = outOfRange 16 p ∧ t.flag .of = outOfRange 16 p ∧
        Ordinary s t [.reg16 r] arithMask)

/-- DIV and IDIV: quotient in AL or AX, remainder in AH or DX; the six flags may change. By zero, or with a quotient that does not
fit, they raise the divide error with nothing changed (R383, R384, R385). -/
def Obligations.DivisionGivesQuotientOrError : Prop :=
  (∀ s : State,
    (∀ e : Eb, s.readable e 1 = true → s.get (s.locEb e) ≠ 0 →
      let d := s.get (s.locEb e)
      let x := signedOf 16 s.ax.toNat
      let y := signedOf 8 d
      (s.ax.toNat / d ≤ 255 →
        Completes (.div (.eb e)) s fun t =>
          (t.reg8 .al).toNat = s.ax.toNat / d ∧ (t.reg8 .ah).toNat = s.ax.toNat % d ∧
          Ordinary s t [.reg16 .ax] arithMask) ∧
      (outOfRange 8 (x.tdiv y) = false →
        Completes (.idiv (.eb e)) s fun t =>
          (t.reg8 .al).toInt = x.tdiv y ∧ (t.reg8 .ah).toInt = x.tmod y ∧ Ordinary s t [.reg16 .ax] arithMask)) ∧
    ∀ e : Ew, s.readable e 2 = true → s.get (s.locEw e) ≠ 0 →
      let d := s.get (s.locEw e)
      let n := 65536 * s.dx.toNat + s.ax.toNat
      let x := signedOf 32 n
      let y := signedOf 16 d
      (n / d ≤ 65535 →
        Completes (.div (.ew e)) s fun t =>
          t.ax.toNat = n / d ∧ t.dx.toNat = n % d ∧ Ordinary s t [.reg16 .ax, .reg16 .dx] arithMask) ∧
      (outOfRange 16 (x.tdiv y) = false →
        Completes (.idiv (.ew e)) s fun t =>
          t.ax.toInt = x.tdiv y ∧ t.dx.toInt = x.tmod y ∧ Ordinary s t [.reg16 .ax, .reg16 .dx] arithMask)) ∧
  (∀ s : State,
    (∀ e : Eb, s.readable e 1 = true →
      let d := s.get (s.locEb e)
      (d = 0 ∨ 255 < s.ax.toNat / d → Raises (.div (.eb e)) s .de) ∧
      (d = 0 ∨ outOfRange 8 ((signedOf 16 s.ax.toNat).tdiv (signedOf 8 d)) = true → Raises (.idiv (.eb e)) s .de)) ∧
    ∀ e : Ew, s.readable e 2 = true →
      let d := s.get (s.locEw e)
      let n := 65536 * s.dx.toNat + s.ax.toNat
      (d = 0 ∨ 65535 < n / d → Raises (.div (.ew e)) s .de) ∧
      (d = 0 ∨ outOfRange 16 ((signedOf 32 n).tdiv (signedOf 16 d)) = true → Raises (.idiv (.ew e)) s .de))

/-! ## Decimal arithmetic -/

/-- DAA and DAS adjust AL by 6 and by 60H; AAA and AAS adjust AL by 6 and AH by 1; AAM and AAD convert between AL and the two
digits in AX; the flags they leave undefined may change (R386 to R391). The SF, ZF and PF of AAM
and AAD are as D20 decides (log 60). -/
def Obligations.DecimalAdjustments : Prop :=
  (∀ s : State,
    let al := (s.reg8 .al).toNat
    let low := decide (9 < al % 16) || s.flag .af
    let six := if low then 6 else 0
    let up := (al + six) % 256
    let down := (al + 256 - six) % 256
    let highUp := decide (0x9F < up) || s.flag .cf
    let highDown := decide (0x9F < down) || s.flag .cf
    let a := (up + if highUp then 0x60 else 0) % 256
    let d := (down + 256 - if highDown then 0x60 else 0) % 256
    (Completes .daa s fun t =>
      (t.reg8 .al).toNat = a ∧ t.flag .af = low ∧ t.flag .cf = highUp ∧ ResultFlags t 8 a ∧
      Ordinary s t [.reg8 .al] arithMask) ∧
    Completes .das s fun t =>
      (t.reg8 .al).toNat = d ∧ t.flag .af = low ∧ t.flag .cf = highDown ∧ ResultFlags t 8 d ∧
      Ordinary s t [.reg8 .al] arithMask) ∧
  (∀ s : State,
    let al := (s.reg8 .al).toNat
    let ah := (s.reg8 .ah).toNat
    let low := decide (9 < al % 16) || s.flag .af
    let k := if low then 1 else 0
    (Completes .aaa s fun t =>
      (t.reg8 .al).toNat = (al + 6 * k) % 16 ∧ (t.reg8 .ah).toNat = (ah + k) % 256 ∧ t.flag .af = low ∧ t.flag .cf = low ∧
      Ordinary s t [.reg16 .ax] arithMask) ∧
    (Completes .aas s fun t =>
      (t.reg8 .al).toNat = (al + 256 - 6 * k) % 16 ∧ (t.reg8 .ah).toNat = (ah + 256 - k) % 256 ∧ t.flag .af = low ∧
      t.flag .cf = low ∧ Ordinary s t [.reg16 .ax] arithMask) ∧
    (Completes .aam s fun t =>
      (t.reg8 .ah).toNat = al / 10 ∧ (t.reg8 .al).toNat = al % 10 ∧ ResultFlags t 8 (al % 10) ∧
      Ordinary s t [.reg16 .ax] arithMask) ∧
    Completes .aad s fun t =>
      (t.reg8 .al).toNat = (10 * ah + al) % 256 ∧ (t.reg8 .ah).toNat = 0 ∧ ResultFlags t 8 ((10 * ah + al) % 256) ∧
      Ordinary s t [.reg16 .ax] arithMask)

/-! ## Logic, shifts, rotates -/

/-- AND, OR and XOR: the bitwise result; CF and OF zero; AF may change. TEST: the flags of AND, and nothing stored (R421 to R424,
R426). -/
def Obligations.LogicalOperations : Prop :=
  (∀ (i : Instr) (f : AluForm) (op : Nat → Nat → Nat) (s : State),
    (i = .and f ∧ op = fun a b => a &&& b) ∨ (i = .or f ∧ op = fun a b => a ||| b) ∨ (i = .xor f ∧ op = fun a b => a ^^^ b) →
    s.plainMemory = true → s.aluReady true f = true →
    let d := s.aluDst f
    let r := op (s.get d) (s.aluSrc f)
    Completes i s fun t =>
      t.get d = r ∧ ResultFlags t d.bits r ∧ t.flag .cf = false ∧ t.flag .of = false ∧ Ordinary s t [d] arithMask) ∧
  (∀ (f : TestForm) (s : State), s.testReady f = true →
    let d := s.testDst f
    Completes (.test f) s fun t =>
      ResultFlags t d.bits (s.get d &&& s.testSrc f) ∧ t.flag .cf = false ∧ t.flag .of = false ∧ Ordinary s t [] arithMask)

/-- SHL, SHR and SAR by a count of 0 to 31: the shifted value, CF the last bit shifted out, OF for a count of 1, the result
flags; a count of 0 leaves every flag but OF, which may change (R431 to R437). OF after a count of 0 is open (D21, log 42). -/
def Obligations.ShiftsMultiplyAndDivide : Prop :=
  ∀ (f : ShiftForm) (s : State), s.plainMemory = true → s.shiftReady f = true →
    let d := s.shiftLoc f
    let w := d.bits
    let a := s.get d
    let k := s.shiftBy f
    let left := a * 2 ^ k % 2 ^ w
    let right := a / 2 ^ k
    let arith := (signedOf w a / 2 ^ k % 2 ^ w).toNat
    (Completes (.shl f) s fun t =>
      t.get d = left ∧
      (k ≠ 0 → t.flag .cf = decide (a * 2 ^ k / 2 ^ w % 2 = 1) ∧ ResultFlags t w left) ∧
      (k = 1 → t.flag .of = (t.flag .cf ^^ t.flag .sf)) ∧
      Ordinary s t [d] (if k = 0 then 0x0800 else arithMask)) ∧
    (Completes (.shr f) s fun t =>
      t.get d = right ∧
      (k ≠ 0 → t.flag .cf = decide (a / 2 ^ (k - 1) % 2 = 1) ∧ ResultFlags t w right) ∧
      (k = 1 → t.flag .of = decide (2 ^ (w - 1) ≤ a)) ∧
      Ordinary s t [d] (if k = 0 then 0x0800 else arithMask)) ∧
    Completes (.sar f) s fun t =>
      t.get d = arith ∧
      (k ≠ 0 → t.flag .cf = decide (signedOf w a / 2 ^ (k - 1) % 2 = 1) ∧ ResultFlags t w arith) ∧
      (k = 1 → t.flag .of = false) ∧
      Ordinary s t [d] (if k = 0 then 0x0800 else arithMask)

/-- ROL and ROR rotate the operand, RCL and RCR the operand and CF as one value of one more bit, by a count of 0 to 31; only
CF and OF may change, and for a count of 0 only OF (R431 to R434, R438 to R441). OF after a count of 0 is open (D21, log 42).
-/
def Obligations.RotatesMoveBitsRound : Prop :=
  (∀ (f : ShiftForm) (s : State), s.plainMemory = true → s.shiftReady f = true →
    let d := s.shiftLoc f
    let w := d.bits
    let a := s.get d
    let k := s.shiftBy f
    let left := (a * 2 ^ (k % w) + a / 2 ^ (w - k % w)) % 2 ^ w
    let right := (a / 2 ^ (k % w) + a * 2 ^ (w - k % w)) % 2 ^ w
    (Completes (.rol f) s fun t =>
      t.get d = left ∧ (k ≠ 0 → t.flag .cf = decide (left % 2 = 1)) ∧
      (k = 1 → t.flag .of = (t.flag .cf ^^ decide (2 ^ (w - 1) ≤ left))) ∧
      Ordinary s t [d] (if k = 0 then 0x0800 else 0x0801)) ∧
    Completes (.ror f) s fun t =>
      t.get d = right ∧ (k ≠ 0 → t.flag .cf = decide (2 ^ (w - 1) ≤ right)) ∧
      (k = 1 → t.flag .of = (decide (2 ^ (w - 1) ≤ right) ^^ decide (2 ^ (w - 2) ≤ right % 2 ^ (w - 1)))) ∧
      Ordinary s t [d] (if k = 0 then 0x0800 else 0x0801)) ∧
  (∀ (f : ShiftForm) (s : State), s.plainMemory = true → s.shiftReady f = true →
    let d := s.shiftLoc f
    let w := d.bits
    let x := s.get d + 2 ^ w * (s.flag .cf).toNat
    let k := s.shiftBy f % (w + 1)
    let left := (x * 2 ^ k + x / 2 ^ (w + 1 - k)) % 2 ^ (w + 1)
    let right := (x / 2 ^ k + x * 2 ^ (w + 1 - k)) % 2 ^ (w + 1)
    (Completes (.rcl f) s fun t =>
      t.get d + 2 ^ w * (t.flag .cf).toNat = left ∧
      (s.shiftBy f = 1 → t.flag .of = (t.flag .cf ^^ decide (2 ^ (w - 1) ≤ t.get d))) ∧
      Ordinary s t [d] (if s.shiftBy f = 0 then 0x0800 else 0x0801)) ∧
    Completes (.rcr f) s fun t =>
      t.get d + 2 ^ w * (t.flag .cf).toNat = right ∧
      (s.shiftBy f = 1 →
        t.flag .of = (decide (2 ^ (w - 1) ≤ t.get d) ^^ decide (2 ^ (w - 2) ≤ t.get d % 2 ^ (w - 1)))) ∧
      Ordinary s t [d] (if s.shiftBy f = 0 then 0x0800 else 0x0801))

/-! ## Data movement -/

/-- MOV, every row but the load of a segment register: the source is copied. XCHG exchanges its operands. Nothing else changes
(R321 to R323, R325 to R328, R342, R343). A byte stored where the platform has ROM or no memory changes no memory, and one loaded
where it has none is open; no exception follows; in Real Address Mode the platform may force A23 to A20 low (R7, R103, R123, R127,
R129). How the platform's answers are drawn is log 70. -/
def Obligations.MovAndXchgMoveOperands : Prop :=
  (∀ (f : MovForm) (s : State), (∀ (r : Sreg) (e : Ew), f ≠ .sregEw r e) → s.plainMemory = true → s.movReady f = true →
    Completes (.mov f) s fun t => t.get (s.movDst f) = s.movSrc f ∧ Ordinary s t [s.movDst f] 0) ∧
  (∀ (f : XchgForm) (s : State) (a b : Loc), s.plainMemory = true →
    (∃ (e : Eb) (r : Reg8), f = .ebRb e r ∧ s.readable e 1 = true ∧ s.writable e 1 = true ∧ a = s.locEb e ∧ b = .reg8 r) ∨
    (∃ (e : Ew) (r : Reg16), f = .ewRw e r ∧ s.readable e 2 = true ∧ s.writable e 2 = true ∧ a = s.locEw e ∧ b = .reg16 r) ∨
    (∃ r : Reg16, f = .axRw r ∧ a = .reg16 .ax ∧ b = .reg16 r) →
    Completes (.xchg f) s fun t => t.get a = s.get b ∧ t.get b = s.get a ∧ Ordinary s t [a, b] 0) ∧
  ∀ (m : Mem) (r : Reg8) (s : State),
    let a := (s.seg (s.memSeg m)).addr (s.ea m).toNat
    let p : Addr := if s.platform.masksHigh = true ∧ s.pe = false then BitVec.ofNat 24 (a.toNat % 2 ^ 20) else a
    let kind := s.platform.kindAt p
    (Memory.wf s.mem = true → s.writable (.mem m : Eb) 1 = true → Completes (.mov (.ebRb (.mem m) r)) s fun t =>
      (∀ b : Addr, Memory.read t.mem b.toNat = if b = p ∧ kind = .ram then s.reg8 r else Memory.read s.mem b.toNat) ∧
      t.ioTrace = (if kind = .other then .store p (s.reg8 r) :: s.ioTrace else s.ioTrace) ∧ t.platform = s.platform ∧
      SameRegs s t [] ∧ SameFlags s t 0 ∧ SameSegments s t [] ∧ SameSystem s t ∧ SameNpx s t ∧ Sequential s t ∧ Boundary s t) ∧
    (s.readable (.mem m : Eb) 1 = true → Completes (.mov (.rbEb r (.mem m))) s fun t =>
      t.reg8 r = (if kind = .other then Config.openByte s.clock p else Memory.read s.mem p.toNat) ∧ Ordinary s t [.reg8 r] 0)

/-- MOV and POP of a segment register, LDS and LES, in Real Address Mode: the selector, a base of 16 times it, limit FFFFH;
the other segment registers stay; after SS everything is inhibited until the next instruction has run (R38, R324, R333, R348,
R349, R936). That the register is valid then is log 52. -/
def Obligations.SegmentLoadsInRealMode : Prop :=
  ∀ (i : Instr) (r : Sreg) (sel : Word) (changed : List Loc) (s : State), s.pe = false → r ≠ .cs →
    (∃ e : Ew, i = .mov (.sregEw r e) ∧ s.readable e 2 = true ∧ sel.toNat = s.get (s.locEw e) ∧ changed = []) ∨
    (i = .pop (.sreg r) ∧ s.mayRead .ss s.sp.toNat 2 = true ∧ sel.toNat = s.get (s.stackAt 0) ∧ changed = [.reg16 .sp]) ∨
    (∃ (g : Reg16) (m : Mem), (i = .lds g m ∧ r = .ds ∨ i = .les g m ∧ r = .es) ∧ s.operandIn m 2 = true ∧
      sel = s.readWord (s.operandAddr m 1) ∧ changed = [.reg16 g]) →
    Completes i s fun t =>
      RealSegment (t.seg r) sel ∧ SameSegments s t [r] ∧ SameRegs s t changed ∧ SameMemory s t [] ∧ SameFlags s t 0 ∧
      SameSystem s t ∧ SameNpx s t ∧ Sequential s t ∧ t.inhibitAll = decide (r = .ss) ∧
      (i = .pop (.sreg r) → t.sp = s.sp + 2) ∧
      ∀ (g : Reg16) (m : Mem), i = .lds g m ∨ i = .les g m → t.reg16 g = s.readWord (s.operandAddr m 0)

/-- Loading DS or ES in Protected Mode from a present readable segment whose privilege admits it: the descriptor's base and
limit are cached, and the Accessed bit is set in memory and in the cache. A null selector loads too, but leaves the register
not valid. A segment that is not admitted gives #GP, one not present #NP. Loading SS makes its six tests, #GP or, not present,
#SS; a load that succeeds inhibits everything until the next instruction has run (R171, R172, R173, R176, R936). The Accessed bit
in the cache is log 53. -/
def Obligations.DataSegmentLoadsInProtectedMode : Prop :=
  ∀ (i : Instr) (r : Sreg) (sel : Word) (changed : List Loc) (s : State), s.pe = true → r ≠ .cs →
    s.plainMemory = true →
    (∃ e : Ew, i = .mov (.sregEw r e) ∧ s.readable e 2 = true ∧ sel.toNat = s.get (s.locEw e) ∧ changed = []) ∨
    (i = .pop (.sreg r) ∧ s.mayRead .ss s.sp.toNat 2 = true ∧ sel.toNat = s.get (s.stackAt 0) ∧ changed = [.reg16 .sp]) ∨
    (∃ (g : Reg16) (m : Mem), (i = .lds g m ∧ r = .ds ∨ i = .les g m ∧ r = .es) ∧ s.operandIn m 1 = true ∧
      s.mayRead (s.memSeg m) ((s.ea m).toNat + 2) 2 = true ∧ sel = s.readWord (s.operandAddr m 1) ∧
      changed = [.reg16 g]) →
    let rest (t : State) : Prop :=
      SameSegments s t [r] ∧ SameRegs s t changed ∧ SameFlags s t 0 ∧ SameSystem s t ∧ SameNpx s t ∧ Sequential s t ∧
      t.inhibitAll = decide (r = .ss) ∧ (i = .pop (.sreg r) → t.sp = s.sp + 2) ∧
      ∀ (g : Reg16) (m : Mem), i = .lds g m ∨ i = .les g m → t.reg16 g = s.readWord (s.operandAddr m 0)
    let allowed (d : Desc) : Prop :=
      if r = .ss then rpl sel = s.cpl ∧ d.writable = true ∧ d.dpl = s.cpl
      else d.readable = true ∧ (d.conforming = true ∨ s.cpl ≤ d.dpl ∧ rpl sel ≤ d.dpl)
    (isNull sel = true →
      (r ≠ .ss → Completes i s fun t => (t.seg r).sel = sel ∧ (t.seg r).valid = false ∧ SameMemory s t [] ∧ rest t) ∧
      (r = .ss → Raises i s (.gp 0))) ∧
    (isNull sel = false → s.descriptor sel = none → Raises i s (.gp sel)) ∧
    ∀ d : Desc, isNull sel = false → s.descriptor sel = some d →
      (¬allowed d → Raises i s (.gp sel)) ∧
      (allowed d → d.present = false → Raises i s (if r = .ss then .ss sel else .np sel)) ∧
      (allowed d → d.present = true → Completes i s fun t =>
        t.seg r = { sel := sel, base := d.base, limit := d.limit, access := d.access ||| 1, valid := true } ∧
        t.readByte (d.addr + 5) = d.access ||| 1 ∧ SameMemory s t [.mem8 (d.addr + 5)] ∧ rest t)

/-- PUSH: SP goes down by 2 and the word is stored at SS:SP; what is pushed is read before SP moves. POP into a register or memory:
the word at SS:SP, SP up by 2 unless SP is the destination (R330, R331, R332, R334 to R337). Without room for the word PUSH and
PUSHF raise #SS(0) in Protected Mode and shut the processor down in Real Address Mode; POP and POPF of a word outside the segment
raise #SS(0), or interrupt 13 (R330, R332, R333, R340, R341, R950). That POP tests the stack before its destination is D19 (log
57), CS:IP in shutdown log 49. -/
def Obligations.PushAndPopMoveWord : Prop :=
  (∀ (f : PushForm) (s : State), s.plainMemory = true → s.pushReady f = true → s.stackRoom 1 = true →
    Completes (.push f) s fun t =>
      t.sp = s.sp - 2 ∧ t.get (s.stackAt (-2)) = s.pushSrc f ∧ Ordinary s t [.reg16 .sp, s.stackAt (-2)] 0) ∧
  (∀ s : State, s.plainMemory = true → s.mayRead .ss s.sp.toNat 2 = true →
    (∀ r : Reg16, Completes (.pop (.rw r)) s fun t =>
      (t.reg16 r).toNat = s.get (s.stackAt 0) ∧ (r ≠ .sp → t.sp = s.sp + 2) ∧ Ordinary s t [.reg16 .sp, .reg16 r] 0) ∧
    ∀ e : Ew, s.writable e 2 = true → Completes (.pop (.mw e)) s fun t =>
      t.get (s.locEw e) = s.get (s.stackAt 0) ∧ (s.locEw e ≠ .reg16 .sp → t.sp = s.sp + 2) ∧
      Ordinary s t [.reg16 .sp, s.locEw e] 0) ∧
  ∀ (i : Instr) (s : State),
    (i = .pushf ∨ (∃ f : PushForm, i = .push f ∧ s.pushReady f = true) →
      (s.pe = true → s.ss.valid = true → s.withinSegment .ss (s.sp - 2).toNat 2 = false → Raises i s (.ss 0)) ∧
      (s.pe = false → s.sp = 1 → Completes i s fun t => ShutDownAt s t s.istart)) ∧
    (i = .popf ∨ (∃ f : PopForm, i = .pop f ∧ f ≠ .sreg .cs) → s.pe = false ∨ s.ss.valid = true →
      s.withinSegment .ss s.sp.toNat 2 = false → Raises i s (if s.pe then .ss 0 else ⟨13, none⟩))

/-- PUSHA pushes AX, CX, DX, BX, the old SP, BP, SI, DI; POPA pops them back, discarding the word for SP. PUSHF stores the
defined bits of FLAGS (the reserved ones are open, U2); POPF loads them: IOPL only at privilege level 0, IF only with CPL at
most IOPL, and neither IOPL nor NT in Real Address Mode (R338 to R341, R44, R630). In Protected Mode PUSHA and POPA raise #SS(0)
with nothing changed where the first or the last word, or one that PUSHA would push, lies outside the limit, or an odd SP would
wrap; from an even SP that would wrap they push, or pop, until SP is 0000H and raise #SS(0) then, what they have done staying
(R117, R181). The wrap of SP is as log 15, the reserved bits as log 17. -/
def Obligations.PushAndPopAllRegistersOrFlags : Prop :=
  (∀ s : State, s.plainMemory = true →
    ((if s.pe then s.ss.valid && s.ss.inLimit true (s.sp - 16).toNat 16
      else !(decide (s.sp.toNat % 2 = 1) && decide (s.sp.toNat ≤ 15))) = true →
      Completes .pusha s fun t =>
        t.sp = s.sp - 16 ∧
        t.get (s.stackAt (-2)) = s.ax.toNat ∧ t.get (s.stackAt (-4)) = s.cx.toNat ∧ t.get (s.stackAt (-6)) = s.dx.toNat ∧
        t.get (s.stackAt (-8)) = s.bx.toNat ∧ t.get (s.stackAt (-10)) = s.sp.toNat ∧
        t.get (s.stackAt (-12)) = s.bp.toNat ∧ t.get (s.stackAt (-14)) = s.si.toNat ∧
        t.get (s.stackAt (-16)) = s.di.toNat ∧
        Ordinary s t
          [.reg16 .sp, s.stackAt (-2), s.stackAt (-4), s.stackAt (-6), s.stackAt (-8), s.stackAt (-10), s.stackAt (-12),
            s.stackAt (-14), s.stackAt (-16)] 0) ∧
    ((if s.pe then s.mayRead .ss s.sp.toNat 16
      else !(decide (s.sp.toNat % 2 = 1) && decide (0xFFF1 ≤ s.sp.toNat))) = true →
      Completes .popa s fun t =>
        t.sp = s.sp + 16 ∧
        t.di.toNat = s.get (s.stackAt 0) ∧ t.si.toNat = s.get (s.stackAt 2) ∧ t.bp.toNat = s.get (s.stackAt 4) ∧
        t.bx.toNat = s.get (s.stackAt 8) ∧ t.dx.toNat = s.get (s.stackAt 10) ∧ t.cx.toNat = s.get (s.stackAt 12) ∧
        t.ax.toNat = s.get (s.stackAt 14) ∧
        Ordinary s t
          [.reg16 .sp, .reg16 .di, .reg16 .si, .reg16 .bp, .reg16 .bx, .reg16 .dx, .reg16 .cx, .reg16 .ax] 0)) ∧
  (∀ s : State, s.plainMemory = true → s.pe = true → s.ss.valid = true →
    let inside (off : Word) : Bool := s.ss.inLimit true off.toNat 2
    let spoiled (i : Instr) (p : State → Prop) : Prop := ∃ r : State,
      exec i s = .next ((takeException (.ss 0) true s r).ended s.tfAtStart .done) ∧ r.sp = 0 ∧ r.ip = s.istart ∧
      r.ipCarry = false ∧ SameFlags s r 0 ∧ SameSegments s r [] ∧ SameSystem s r ∧ SameNpx s r ∧ r.ioTrace = s.ioTrace ∧ p r
    (inside (s.sp - 2) = false ∨ inside (s.sp - 16) = false ∨ s.sp.toNat % 2 = 1 ∧ s.sp.toNat < 16 ∨
        (∃ j : Nat, j < 8 ∧ 2 * j + 2 ≤ s.sp.toNat ∧ inside (s.sp - BitVec.ofNat 16 (2 * j + 2)) = false) →
      Raises .pusha s (.ss 0)) ∧
    (∀ n : Nat, (∀ j : Nat, j < n → inside (s.sp - BitVec.ofNat 16 (2 * j + 2)) = true) → inside (s.sp - 16) = true →
      s.sp.toNat = 2 * n → 0 < n → n < 8 →
      spoiled .pusha fun r =>
        r.holdsPushed s.ss s.sp ([s.ax, s.cx, s.dx, s.bx, s.sp, s.bp, s.si].take n) ∧ SameRegs s r [.reg16 .sp] ∧
        SameMemory s r (pushLocs s.ss s.sp n)) ∧
    ((s.ss.isCode && !s.ss.rw) = false →
      (inside s.sp = false ∨ inside (s.sp + 14) = false ∨ s.sp.toNat % 2 = 1 ∧ 0xFFF1 ≤ s.sp.toNat →
        Raises .popa s (.ss 0)) ∧
      ∀ n : Nat, s.sp.toNat + 2 * n = 65536 → 0 < n → n < 8 → inside (s.sp + 14) = true →
        (∀ j : Nat, j < n → inside (s.sp + BitVec.ofNat 16 (2 * j)) = true) →
        spoiled .popa fun r =>
          (∀ j : Nat, j < n → j ≠ 3 →
            (r.reg16 ([Reg16.di, .si, .bp, .sp, .bx, .dx, .cx].getD j .ax)).toNat = s.get (s.stackAt (BitVec.ofNat 16 (2 * j)))) ∧
          SameRegs s r (.reg16 .sp :: ([Reg16.di, .si, .bp, .sp, .bx, .dx, .cx].take n).map .reg16) ∧ SameMemory s r [])) ∧
  (∀ s : State, s.plainMemory = true →
    (s.stackRoom 1 = true →
      Completes .pushf s fun t =>
        t.sp = s.sp - 2 ∧
        (∃ image : Word, t.get (s.stackAt (-2)) = image.toNat ∧ image &&& definedFlags = s.flags &&& definedFlags) ∧
        Ordinary s t [.reg16 .sp, s.stackAt (-2)] 0) ∧
    ∀ image : Word, s.flags &&& 0x802A = 0x0002 → s.mayRead .ss s.sp.toNat 2 = true → s.get (s.stackAt 0) = image.toNat →
      Completes .popf s fun t =>
        t.sp = s.sp + 2 ∧ t.flags &&& 0x0DD5 = image &&& 0x0DD5 ∧
        t.flags &&& 0x0200 = (if s.pe = false ∨ s.cpl ≤ s.iopl then image else s.flags) &&& 0x0200 ∧
        t.flags &&& 0x3000 = (if s.pe = true ∧ s.cpl = 0 then image else s.flags) &&& 0x3000 ∧
        t.flags &&& 0x4000 = (if s.pe = true then image else s.flags) &&& 0x4000 ∧
        Ordinary s t [.reg16 .sp] definedFlags)

/-- XLAT, LEA, LAHF, SAHF, CBW and CWD: one register or the five low flags, and nothing else (R344, R347, R352 to R355). -/
def Obligations.RegisterTransfers : Prop :=
  ∀ s : State,
    (∀ off : Word, off = s.bx + BitVec.ofNat 16 (s.reg8 .al).toNat → s.mayRead (s.overridden .ds) off.toNat 1 = true →
      Completes .xlat s fun t =>
        (t.reg8 .al).toNat = s.get (s.locX 8 off) ∧ Ordinary s t [.reg8 .al] 0) ∧
    (∀ (r : Reg16) (m : Mem), Completes (.lea r m) s fun t => t.reg16 r = s.ea m ∧ Ordinary s t [.reg16 r] 0) ∧
    (Completes .lahf s fun t =>
      t.reg8 .ah &&& 0xD5 = s.flags.setWidth 8 &&& 0xD5 ∧ Ordinary s t [.reg8 .ah] 0) ∧
    (Completes .sahf s fun t =>
      t.flags.setWidth 8 &&& 0xD5 = s.reg8 .ah &&& 0xD5 ∧ Ordinary s t [] 0x00D5) ∧
    (Completes .cbw s fun t => t.ax.toInt = (s.reg8 .al).toInt ∧ Ordinary s t [.reg16 .ax] 0) ∧
    Completes .cwd s fun t =>
      (t.dx ++ t.ax : BitVec 32).toInt = s.ax.toInt ∧ Ordinary s t [.reg16 .dx] 0

/-- The platform sees each port access, low byte first; IN takes what it answers. Ports 00F8H to 00FFH belong to the 80287
(R125, R126, R345, R346, D8; the answers are free values, log 5). -/
def Obligations.PortInstructionsTransferData : Prop :=
  ∀ (f : PortForm) (s : State) (p : Word), s.pe = false ∨ s.cpl ≤ s.iopl →
    p = (match f with | .byteImm v => v.setWidth 16 | .wordImm v => v.setWidth 16 | .byteDx => s.dx | .wordDx => s.dx) →
    s.npxPresent = false ∨ npxPort p = false ∧ (portIsWord f = true → npxPort (p + 1) = false) →
    let word := portIsWord f
    (Completes (.inp f) s fun t =>
      ∃ lo hi : Byte,
        t.ioTrace = (if word then [.input (p + 1) hi, .input p lo] else [.input p lo]) ++ s.ioTrace ∧
        (if word then t.ax = hi ++ lo else t.reg8 .al = lo) ∧
        SameRegs s t [if word then .reg16 .ax else .reg8 .al] ∧ SameMemory s t [] ∧ SameFlags s t 0 ∧
        SameSegments s t [] ∧ SameSystem s t ∧ SameNpx s t ∧ Sequential s t ∧ Boundary s t) ∧
    Completes (.outp f) s fun t =>
      t.ioTrace =
        (if word then [.output (p + 1) (s.reg8 .ah), .output p (s.reg8 .al)] else [.output p (s.reg8 .al)]) ++ s.ioTrace ∧
      SameRegs s t [] ∧ SameMemory s t [] ∧ SameFlags s t 0 ∧ SameSegments s t [] ∧ SameSystem s t ∧ SameNpx s t ∧
      Sequential s t ∧ Boundary s t

/-! ## Strings -/

/-- MOVS, LODS and STOS, alone or as one iteration of a repetition with CX not zero: one element moves, SI and DI step by its size
in the direction of DF, CX counts down, and the instruction begins again while CX is not zero. A repeated string instruction of
any kind with CX = 0 does nothing (R460 to R463, R466, R467, R480). One iteration is one step (log 1); F2 acts as F3 here by D17
(log 50), and that a repeated INS or OUTS with CX = 0 makes no test is R481's derived sentence. -/
def Obligations.StringMovesTransferElements : Prop :=
  (∀ (i : Instr) (n : Nat) (src dst : Loc) (si di : Bool) (s : State),
    let S := s.overridden .ds
    let a := (s.seg S).addr s.si.toNat
    let b := s.es.addr s.di.toNat
    let acc := if n = 8 then Loc.reg8 .al else Loc.reg16 .ax
    let canRead := s.mayRead S s.si.toNat (n / 8) = true
    let canWrite := s.mayWrite .es s.di.toNat (n / 8) = true
    ((i = .movsb ∧ n = 8 ∨ i = .movsw ∧ n = 16) ∧ src = .at n a ∧ dst = .at n b ∧ si = true ∧ di = true ∧ canRead ∧ canWrite) ∨
    ((i = .lodsb ∧ n = 8 ∨ i = .lodsw ∧ n = 16) ∧ src = .at n a ∧ dst = acc ∧ si = true ∧ di = false ∧ canRead) ∨
    ((i = .stosb ∧ n = 8 ∨ i = .stosw ∧ n = 16) ∧ src = acc ∧ dst = .at n b ∧ si = false ∧ di = true ∧ canWrite) →
    s.plainMemory = true → s.pfx.rep = none ∨ s.cx ≠ 0 →
    let step := if s.flag .df then -BitVec.ofNat 16 (n / 8) else BitVec.ofNat 16 (n / 8)
    let again := s.pfx.rep.isSome && s.cx != 1
    Completes i s fun t =>
      t.get dst = s.get src ∧ t.si = (if si then s.si + step else s.si) ∧ t.di = (if di then s.di + step else s.di) ∧
      t.cx = (if s.pfx.rep.isSome then s.cx - 1 else s.cx) ∧
      (if again then GoesOn i s t else Sequential s t ∧ Boundary s t) ∧
      Frame s t [dst, .reg16 .si, .reg16 .di, .reg16 .cx] 0) ∧
  (∀ (i : Instr) (s : State),
    i ∈ [Instr.movsb, .movsw, .cmpsb, .cmpsw, .scasb, .scasw, .lodsb, .lodsw, .stosb, .stosw, .insb, .insw, .outsb, .outsw] →
    s.pfx.rep.isSome = true → s.cx = 0 → Completes i s fun t => Ordinary s t [] 0)

/-- CMPS and SCAS, alone or as one iteration: the flags of source minus destination, respectively accumulator minus destination;
a repetition goes on while CX is not zero and ZF agrees with the prefix (R464, R465, R480; one iteration is one step, log 1). -/
def Obligations.StringComparesSetFlags : Prop :=
  ∀ (i : Instr) (n : Nat) (src : Loc) (si : Bool) (s : State),
    let S := s.overridden .ds
    let b := Loc.at n (s.es.addr s.di.toNat)
    ((i = .cmpsb ∧ n = 8 ∨ i = .cmpsw ∧ n = 16) ∧ src = .at n ((s.seg S).addr s.si.toNat) ∧ si = true ∧
      s.mayRead S s.si.toNat (n / 8) = true) ∨
    ((i = .scasb ∧ n = 8 ∨ i = .scasw ∧ n = 16) ∧ src = (if n = 8 then Loc.reg8 .al else Loc.reg16 .ax) ∧ si = false) →
    s.mayRead .es s.di.toNat (n / 8) = true → s.pfx.rep = none ∨ s.cx ≠ 0 →
    let step := if s.flag .df then -BitVec.ofNat 16 (n / 8) else BitVec.ofNat 16 (n / 8)
    Completes i s fun t =>
      let again := s.cx ≠ 1 ∧ (s.pfx.rep = some .rep ∧ t.flag .zf = true ∨ s.pfx.rep = some .repne ∧ t.flag .zf = false)
      ResultFlags t n (diffMod n (s.get src) (s.get b) 0) ∧ SubFlags t n (s.get src) (s.get b) 0 ∧
      t.si = (if si then s.si + step else s.si) ∧ t.di = s.di + step ∧
      t.cx = (if s.pfx.rep.isSome then s.cx - 1 else s.cx) ∧
      (again → GoesOn i s t) ∧ (¬again → Sequential s t ∧ Boundary s t) ∧
      Frame s t [.reg16 .si, .reg16 .di, .reg16 .cx] arithMask

/-- INS and OUTS, alone or as one iteration: one element between port DX and memory, the platform seeing each byte access, low
byte first (R125, R468, R469, R480). The answers are free values (log 5), F2 acts as F3 by D17 (log 50), the high byte goes to port
DX + 1 modulo 2^16 by D8 (log 54), one iteration is one step (log 1). -/
def Obligations.StringPortTransfers : Prop :=
  ∀ (n : Nat) (s : State), n = 8 ∨ n = 16 → s.pe = false ∨ s.cpl ≤ s.iopl →
    s.npxPresent = false ∨ npxPort s.dx = false ∧ (n = 16 → npxPort (s.dx + 1) = false) →
    s.plainMemory = true → s.pfx.rep = none ∨ s.cx ≠ 0 →
    let S := s.overridden .ds
    let src := Loc.at n ((s.seg S).addr s.si.toNat)
    let dst := Loc.at n (s.es.addr s.di.toNat)
    let step := if s.flag .df then -BitVec.ofNat 16 (n / 8) else BitVec.ofNat 16 (n / 8)
    let again := s.pfx.rep.isSome && s.cx != 1
    let count (i : Instr) (t : State) : Prop :=
      t.cx = (if s.pfx.rep.isSome then s.cx - 1 else s.cx) ∧
      (if again then GoesOn i s t else Sequential s t ∧ Boundary s t)
    let rest (t : State) : Prop :=
      SameFlags s t 0 ∧ SameSegments s t [] ∧ SameSystem s t ∧ SameNpx s t
    (s.mayWrite .es s.di.toNat (n / 8) = true →
      Completes (if n = 8 then .insb else .insw) s fun t =>
        (∃ lo hi : Byte,
          t.ioTrace = (if n = 16 then [.input (s.dx + 1) hi, .input s.dx lo] else [.input s.dx lo]) ++ s.ioTrace ∧
          t.get dst = lo.toNat + if n = 16 then 256 * hi.toNat else 0) ∧
        t.di = s.di + step ∧ count (if n = 8 then .insb else .insw) t ∧ SameRegs s t [.reg16 .di, .reg16 .cx] ∧
        SameMemory s t [dst] ∧ rest t) ∧
    (s.mayRead S s.si.toNat (n / 8) = true →
      Completes (if n = 8 then .outsb else .outsw) s fun t =>
        (∃ lo hi : Byte,
          t.ioTrace = (if n = 16 then [.output (s.dx + 1) hi, .output s.dx lo] else [.output s.dx lo]) ++ s.ioTrace ∧
          s.get src = lo.toNat + if n = 16 then 256 * hi.toNat else 0) ∧
        t.si = s.si + step ∧ count (if n = 8 then .outsb else .outsw) t ∧ SameRegs s t [.reg16 .si, .reg16 .cx] ∧
        SameMemory s t [] ∧ rest t)

/-! ## Control transfer -/

/-- The seventeen conditional jumps: IP moves by the displacement from the next instruction when the condition holds, and nothing
else changes; a target beyond the limit of CS raises #GP(0). LOOP, LOOPE and LOOPNE count CX down without touching the flags, and
jump while CX is not zero and ZF agrees (R491, R492, R499 to R519). -/
def Obligations.ConditionalJumpsAndLoops : Prop :=
  (∀ (i : Instr) (c : Bool) (d : Byte) (s : State), s.condition i = some (c, d) →
    (c = true → s.inCode (s.ip + d.signExtend 16) = true) →
    Completes i s fun t =>
      t.ip = (if c then s.ip + d.signExtend 16 else s.ip) ∧ Frame s t [] 0 ∧ Boundary s t) ∧
  (∀ (i : Instr) (d : Byte) (s : State), s.condition i = some (true, d) → s.inCode (s.ip + d.signExtend 16) = false →
    Raises i s (.gp 0)) ∧
  (∀ (i : Instr) (z : Bool) (d : Byte) (s : State),
    (i = .loop d ∧ z = true) ∨ (i = .loope d ∧ z = s.flag .zf) ∨ (i = .loopne d ∧ z = !s.flag .zf) →
    let jump := s.cx != 1 && z
    (jump = true → s.inCode (s.ip + d.signExtend 16) = true) →
    Completes i s fun t =>
      t.cx = s.cx - 1 ∧ t.ip = (if jump then s.ip + d.signExtend 16 else s.ip) ∧ Frame s t [.reg16 .cx] 0 ∧ Boundary s t)

/-- Near JMP, CALL and RET: the target within the code segment becomes IP; CALL pushes the offset of the next instruction, RET
pops it and releases its immediate (R491 to R494, R521, R522, R525). A target beyond the limit of CS raises #GP(0) with nothing
changed, CX included where it is a loop's (R491, R517). CALL without room for its word raises #SS(0) in Protected Mode and shuts
the processor down in Real Address Mode; RET of a word outside the segment raises #SS(0), or interrupt 13 (R330, R950). The order
of the tests of CALL and CX after the fault of a loop are D24 (log 57), CS:IP in shutdown is log 49. -/
def Obligations.NearTransfers : Prop :=
  (∀ (target : Word) (s : State), s.plainMemory = true → s.inCode target = true →
    (∀ i : Instr,
      (∃ d : Byte, i = .jmp (.short d) ∧ target = s.ip + d.signExtend 16) ∨
      (∃ d : Word, i = .jmp (.near d) ∧ target = s.ip + d) ∨
      (∃ e : Ew, i = .jmp (.ew e) ∧ s.readable e 2 = true ∧ target.toNat = s.get (s.locEw e)) →
      Completes i s fun t => t.ip = target ∧ Frame s t [] 0 ∧ Boundary s t) ∧
    (∀ i : Instr, s.stackRoom 1 = true →
      (∃ d : Word, i = .call (.near d) ∧ target = s.ip + d) ∨
      (∃ e : Ew, i = .call (.ew e) ∧ s.readable e 2 = true ∧ target.toNat = s.get (s.locEw e)) →
      Completes i s fun t =>
        t.ip = target ∧ t.sp = s.sp - 2 ∧ t.get (s.stackAt (-2)) = s.ip.toNat ∧
        Frame s t [.reg16 .sp, s.stackAt (-2)] 0 ∧ Boundary s t) ∧
    ∀ (i : Instr) (n : Word), s.mayRead .ss s.sp.toNat 2 = true → target.toNat = s.get (s.stackAt 0) →
      (i = .ret .near ∧ n = 0) ∨ i = .ret (.nearImm n) →
      Completes i s fun t => t.ip = target ∧ t.sp = s.sp + 2 + n ∧ Frame s t [.reg16 .sp] 0 ∧ Boundary s t) ∧
  ∀ (i : Instr) (target : Word) (s : State),
    let jumps : Prop := (∃ d : Byte, i = .jmp (.short d) ∧ target = s.ip + d.signExtend 16) ∨
      (∃ d : Word, i = .jmp (.near d) ∧ target = s.ip + d) ∨
      (∃ e : Ew, i = .jmp (.ew e) ∧ s.readable e 2 = true ∧ target.toNat = s.get (s.locEw e))
    let loops : Prop := ∃ d : Byte, target = s.ip + d.signExtend 16 ∧ s.cx ≠ 1 ∧
      (i = .loop d ∨ i = .loope d ∧ s.flag .zf = true ∨ i = .loopne d ∧ s.flag .zf = false)
    let calls : Prop := (∃ d : Word, i = .call (.near d) ∧ target = s.ip + d) ∨
      (∃ e : Ew, i = .call (.ew e) ∧ s.readable e 2 = true ∧ target.toNat = s.get (s.locEw e))
    let returns : Prop := i = .ret .near ∨ ∃ n : Word, i = .ret (.nearImm n)
    (s.inCode target = false →
      jumps ∨ loops ∨ calls ∧ s.stackRoom 1 = true ∨
        returns ∧ s.mayRead .ss s.sp.toNat 2 = true ∧ target.toNat = s.get (s.stackAt 0) →
      Raises i s (.gp 0)) ∧
    (calls →
      (s.pe = true → s.ss.valid = true → s.withinSegment .ss (s.sp - 2).toNat 2 = false → Raises i s (.ss 0)) ∧
      (s.pe = false → s.sp = 1 → Completes i s fun t => ShutDownAt s t s.istart)) ∧
    (returns → s.pe = false ∨ s.ss.valid = true → s.withinSegment .ss s.sp.toNat 2 = false →
      Raises i s (if s.pe then .ss 0 else ⟨13, none⟩))

/-- Far JMP, CALL and RET in Real Address Mode: CS is loaded as 16 times the selector; CALL pushes CS, then the offset of the
next instruction; RET pops them and releases its immediate (R495, R496, R523, R524, R526). CALL with SP = 1 or 3 shuts the
processor down, RET of a word at offset FFFFH raises interrupt 13 (R330, R526, R950). That CS is valid is log 52, CS:IP in
shutdown log 49. -/
def Obligations.FarTransfersInRealMode : Prop :=
  (∀ (off sel : Word) (s : State), s.plainMemory = true → s.pe = false →
    let arrived (t : State) : Prop :=
      t.ip = off ∧ RealSegment t.cs sel ∧ SameSegments s t [.cs] ∧ SameFlags s t 0 ∧ SameSystem s t ∧ SameNpx s t ∧ Boundary s t
    let pointer (m : Mem) : Prop :=
      s.operandIn m 2 = true ∧ off = s.readWord (s.operandAddr m 0) ∧ sel = s.readWord (s.operandAddr m 1)
    (∀ i : Instr, i = .jmp (.far off sel) ∨ (∃ m : Mem, i = .jmp (.ed m) ∧ pointer m) →
      Completes i s fun t => arrived t ∧ SameRegs s t [] ∧ SameMemory s t []) ∧
    (∀ i : Instr, s.stackRoom 2 = true → i = .call (.far off sel) ∨ (∃ m : Mem, i = .call (.ed m) ∧ pointer m) →
      Completes i s fun t =>
        arrived t ∧ t.sp = s.sp - 4 ∧ t.get (s.stackAt (-2)) = s.cs.sel.toNat ∧ t.get (s.stackAt (-4)) = s.ip.toNat ∧
        SameRegs s t [.reg16 .sp] ∧ SameMemory s t [s.stackAt (-2), s.stackAt (-4)]) ∧
    ∀ (i : Instr) (n : Word), s.mayRead .ss s.sp.toNat 2 = true → s.mayRead .ss (s.sp + 2).toNat 2 = true →
      off.toNat = s.get (s.stackAt 0) → sel.toNat = s.get (s.stackAt 2) →
      (i = .ret .far ∧ n = 0) ∨ i = .ret (.farImm n) →
      Completes i s fun t => arrived t ∧ t.sp = s.sp + 4 + n ∧ SameRegs s t [.reg16 .sp] ∧ SameMemory s t []) ∧
  ∀ (i : Instr) (s : State), s.pe = false →
    ((∃ off sel : Word, s.farOperand (.call <| .far · ·) (.call <| .ed ·) i off sel) → s.sp = 1 ∨ s.sp = 3 →
      Completes i s fun t => ShutDownAt s t s.istart) ∧
    (i = .ret .far ∨ (∃ n : Word, i = .ret (.farImm n)) → s.sp = 0xFFFF ∨ s.sp = 0xFFFD → Raises i s ⟨13, none⟩)

/-- Far transfers of one task in Protected Mode. JMP and CALL, directly or through a call gate, to a present code segment of the
level in force, keep CPL: CS takes the selector with CPL in its RPL field and the descriptor's base and limit, the Accessed bit
is set; CALL pushes CS and the offset of the next instruction. CALL through a gate to an inner level goes to the stack that the
task state segment names for it and pushes the old SS and SP, the parameters, CS and the offset. RET pops CS:IP and releases
its immediate; to an outer level it reloads SS:SP, on which it releases the immediate too, and nulls DS and ES where that level
may not use them (R593, R595, R596, R600 to R602, R605 to R609, R615 to R618, R162, R176). One that is not admitted changes
nothing: a null selector, a return offset or target beyond the limit raises #GP(0), a selector outside its table, one of another
kind of segment or of a level the rules exclude #GP naming it, a segment, gate or task that is not present #NP naming it, a stack
without room #SS(0). The Accessed bit in the cache is log 53, the gate's layout log 18, how parameters are read D30 (log 57), that
the selector of a task gate is not tested for null log 67. -/
def Obligations.FarJumpToCodeSegmentKeepsPrivilege : Prop :=
  (∀ s : State, s.plainMemory = true → s.pe = true →
    let arrived (t : State) (off sel : Word) (c : Desc) (p : Nat) : Prop :=
      t.ip = off ∧ LoadedFrom t.cs (withRpl sel p) c ∧ t.cpl = p ∧ Boundary s t
    (∀ (i : Instr) (off sel coff csel : Word) (gate : Option Desc) (c : Desc), s.leadsTo sel off gate csel coff c →
      s.sameLevel c →
      (s.farOperand (.jmp <| .far · ·) (.jmp <| .ed ·) i off sel →
        Completes i s fun t =>
          arrived t coff csel c s.cpl ∧ t.readByte (c.addr + 5) = c.access ||| 1 ∧
          TransferFrame s t [] [.mem8 (c.addr + 5)] 0 [.cs]) ∧
      (s.farOperand (.call <| .far · ·) (.call <| .ed ·) i off sel → s.stackRoom 2 = true →
        Completes i s fun t =>
          arrived t coff csel c s.cpl ∧ t.sp = s.sp - 4 ∧ t.readByte (c.addr + 5) = c.access ||| 1 ∧
          (apartFrom (c.addr + 5) s.ss s.sp 2 = true → t.holdsPushed s.ss s.sp [s.cs.sel, s.ip]) ∧
          TransferFrame s t [.reg16 .sp] (.mem8 (c.addr + 5) :: pushLocs s.ss s.sp 2) 0 [.cs])) ∧
    (∀ (i : Instr) (off sel coff csel sp ss : Word) (g c d : Desc) (params : List Word),
      s.leadsTo sel off (some g) csel coff c → s.innerLevel c →
      s.farOperand (.call <| .far · ·) (.call <| .ed ·) i off sel →
      params.length = g.count → s.innerStackAt c.dpl (4 + g.count) sp ss d →
      (∀ k : Nat, k < g.count →
        s.mayRead .ss (s.sp + BitVec.ofNat 16 (2 * k)).toNat 2 = true ∧
        (params.getD k 0).toNat = s.get (s.stackAt (BitVec.ofNat 16 (2 * k)))) →
      Completes i s fun t =>
        arrived t coff csel c c.dpl ∧ LoadedFrom t.ss ss d ∧ t.sp = sp - BitVec.ofNat 16 (8 + 2 * g.count) ∧
        t.holdsPushed t.ss sp ([s.ss.sel, s.sp] ++ params.reverse ++ [s.cs.sel, s.ip]) ∧
        TransferFrame s t [.reg16 .sp]
          (.mem8 (c.addr + 5) :: .mem8 (d.addr + 5) :: pushLocs t.ss sp (4 + g.count)) 0 [.cs, .ss]) ∧
    ∀ (i : Instr) (n off rs : Word) (c : Desc), (i = .ret .far ∧ n = 0) ∨ i = .ret (.farImm n) →
      off = s.readWord (s.ss.addr s.sp.toNat) → rs = s.readWord (s.ss.addr (s.sp.toNat + 2)) →
      s.codeAt rs off c → (if c.conforming then c.dpl ≤ rpl rs else c.dpl = rpl rs) →
      (rpl rs = s.cpl → s.mayRead .ss s.sp.toNat 4 = true →
        Completes i s fun t =>
          arrived t off rs c s.cpl ∧ t.sp = s.sp + 4 + n ∧
          TransferFrame s t [.reg16 .sp] [.mem8 (c.addr + 5)] 0 [.cs]) ∧
      ∀ (nsp nss : Word) (d : Desc), s.cpl < rpl rs → s.mayRead .ss s.sp.toNat (8 + n.toNat) = true →
        nsp = s.readWord (s.ss.addr (s.sp.toNat + 4 + n.toNat)) → nss = s.readWord (s.ss.addr (s.sp.toNat + 6 + n.toNat)) →
        isNull nss = false → s.descriptor nss = some d → rpl nss = rpl rs → d.dpl = rpl rs → d.writable = true →
        d.present = true →
        Completes i s fun t =>
          arrived t off rs c (rpl rs) ∧ LoadedFrom t.ss nss d ∧ t.sp = nsp + n ∧
          KeptForLevel s s.ds t.ds (rpl rs) ∧ KeptForLevel s s.es t.es (rpl rs) ∧
          TransferFrame s t [.reg16 .sp] [.mem8 (c.addr + 5), .mem8 (d.addr + 5)] 0 [.cs, .ss, .ds, .es]) ∧
  ∀ (i : Instr) (s : State), s.pe = true →
    (∀ off sel : Word,
      let jumps : Prop := s.farOperand (.jmp <| .far · ·) (.jmp <| .ed ·) i off sel
      let calls : Prop := s.farOperand (.call <| .far · ·) (.call <| .ed ·) i off sel
      (∀ x : Exn, jumps ∧ s.farRefused sel false x ∨ calls ∧ s.farRefused sel true x → Raises i s x) ∧
      ∀ (csel coff : Word) (gate : Option Desc) (c : Desc), s.leadsTo sel off gate csel coff c → s.sameLevel c → calls →
        s.ss.valid = true → s.stackRoom 2 = false → Raises i s (.ss 0)) ∧
    (∀ (off sel : Word) (c : Desc), s.codeAt sel 0 c → s.sameLevel c → c.conforming = true ∨ rpl sel ≤ s.cpl →
      c.limit.toNat < off.toNat →
      s.farOperand (.jmp <| .far · ·) (.jmp <| .ed ·) i off sel ∨
        s.farOperand (.call <| .far · ·) (.call <| .ed ·) i off sel ∧ s.stackRoom 2 = true →
      Raises i s (.gp 0)) ∧
    ∀ n : Word, (i = .ret .far ∧ n = 0) ∨ i = .ret (.farImm n) →
      let rs := s.readWord (s.ss.addr (s.sp.toNat + 2))
      let off := s.readWord (s.ss.addr s.sp.toNat)
      (s.ss.valid = true → s.withinSegment .ss (s.sp.toNat + 2) 2 = false → Raises i s (.ss 0)) ∧
      (s.mayRead .ss (s.sp.toNat + 2) 2 = true →
        (rpl rs < s.cpl → Raises i s (.gp rs)) ∧
        (∀ x : Exn, rpl rs = s.cpl ∨ s.cpl < rpl rs ∧ s.mayRead .ss s.sp.toNat (8 + n.toNat) = true →
          s.codeRefused rs (returnLevel (rpl rs)) x → Raises i s x) ∧
        (s.cpl < rpl rs → s.withinSegment .ss s.sp.toNat (8 + n.toNat) = false → Raises i s (.ss 0)) ∧
        ∀ c : Desc, s.codeAt rs 0 c → returnLevel (rpl rs) c →
          (rpl rs = s.cpl → s.mayRead .ss s.sp.toNat 2 = true → c.limit.toNat < off.toNat → Raises i s (.gp 0)) ∧
          ∀ x : Exn, s.cpl < rpl rs → s.mayRead .ss s.sp.toNat (8 + n.toNat) = true →
            s.stackRefused (s.readWord (s.ss.addr (s.sp.toNat + 6 + n.toNat))) (rpl rs) x → Raises i s x)

/-! ## Interrupts and exceptions -/

/-- INT n, INT 3 and INTO with OF set enter the interrupt through the table in Real Address Mode, saving the offset of the next
instruction; INTO with OF clear does nothing (R527, R528, R529, R906). That CS is valid then, with limit FFFFH, is log 52, the
limit test of the table D61 (log 60). -/
def Obligations.SoftwareInterruptsInRealMode : Prop :=
  ∀ (i : Instr) (v : Byte) (s : State), s.plainMemory = true →
    (i = .int v ∨ (i = .int3 ∧ v = 3) ∨ (i = .into ∧ v = 4 ∧ s.flag .of = true) → s.realEntryReady v = true →
      Completes i s fun t => EnteredReal s t v s.ip ∧ Boundary s t) ∧
    (i = .into → s.flag .of = false → Completes i s fun t => Ordinary s t [] 0)

/-- What taking an exception leaves, and what becomes of one that cannot be delivered. In Real Address Mode the exception finds
the registers and memory of the start of the instruction, whatever the instruction had reached (or, past the commit point of a
task switch or where it cannot be restarted, those reached), saves the offset of its first byte, prefixes included, pushes no
error code, and enters through the table. A vector outside the table becomes interrupt 8, and shutdown when it is 8 or 13 or the
table does not hold entry 8 either, or with SP 1, 3 or 5; so does a software interrupt, which saves its own first byte for
interrupt 8 (R903, R905 to R907, R950). In Protected Mode an exception whose entry lies outside the IDT becomes a double fault,
#DF(0), saving the same address; that of #NM or #MF, and that of a software interrupt, becomes #GP naming the entry; a double
fault that cannot be delivered shuts the processor down (R625, R911 to R913, R923, R950). CS:IP in shutdown is log 49, the test 4v + 3 of
the table D61 (log 60), that CS is valid after an entry with limit FFFFH log 52, the class of #NM and #MF D58 (log 58), the
layout of a gate log 18, the Accessed bit in the cache log 53. -/
def Obligations.ExceptionsInRealMode : Prop :=
  (∀ (x : Exn) (s r : State), s.plainMemory = true → s.realEntryReady x.vec = true →
    EnteredReal s (takeException x false s r) x.vec s.istart) ∧
  (∀ (x : Exn) (s r : State), r.plainMemory = true → r.realEntryReady x.vec = true →
    EnteredReal r (takeException x true s r) x.vec r.ip) ∧
  (∀ (x : Exn) (s r : State), s.plainMemory = true → s.pe = false →
    let t := takeException x false s r
    (s.idtr.limit.toNat < 4 * x.vec.toNat + 3 →
      (x.vec ≠ 8 ∧ x.vec ≠ 13 → s.realEntryReady 8 = true → EnteredReal s t 8 s.istart) ∧
      (x.vec = 8 ∨ x.vec = 13 ∨ s.idtr.limit.toNat < 35 → ShutDownAt s t s.istart)) ∧
    (4 * x.vec.toNat + 3 ≤ s.idtr.limit.toNat → s.sp = 1 ∨ s.sp = 3 ∨ s.sp = 5 → ShutDownAt s t s.istart)) ∧
  (∀ (v : Byte) (s : State), s.plainMemory = true → s.pe = false → s.idtr.limit.toNat < 4 * v.toNat + 3 →
    (v ≠ 8 ∧ v ≠ 13 → s.realEntryReady 8 = true → Completes (.int v) s fun t => EnteredReal s t 8 s.istart) ∧
    (v ≠ 8 ∧ v ≠ 13 → s.idtr.limit.toNat < 35 → Completes (.int v) s fun t => ShutDownAt s t s.istart) ∧
    (v = 8 ∨ v = 13 → Completes (.int v) s fun t => ShutDownAt s t s.ip)) ∧
  ∀ s : State, s.plainMemory = true → s.pe = true →
    (∀ (x : Exn) (r : State), s.idtr.limit.toNat < 8 * x.vec.toNat + 7 →
      let t := takeException x false s r
      (x.vec ≠ 7 → x.vec ≠ 16 →
        (∀ c : Desc, s.sameReady 8 false c 4 → EnteredSame s t 8 c s.istart [0]) ∧
        (∀ (sp ss : Word) (c d : Desc), s.innerReady 8 false c 6 sp ss d → EnteredInner s t 8 c s.istart [0] sp ss d) ∧
        (s.idtr.limit.toNat < 71 → ShutDownAt s t s.istart)) ∧
      (x.vec = 7 ∨ x.vec = 16 → ∀ c : Desc, s.sameReady 13 false c 4 →
        EnteredSame s t 13 c s.istart [BitVec.ofNat 16 (8 * x.vec.toNat + 3)])) ∧
    ∀ v : Byte, s.idtr.limit.toNat < 8 * v.toNat + 7 →
      (∀ c : Desc, s.sameReady 13 false c 4 →
        Completes (.int v) s fun t => EnteredSame s t 13 c s.istart [BitVec.ofNat 16 (8 * v.toNat + 2)]) ∧
      (s.idtr.limit.toNat < 71 → Completes (.int v) s fun t => ShutDownAt s t s.istart)

/-- IRET in Real Address Mode pops IP, CS and FLAGS, but neither IOPL nor NT, and lets NMI in again (R530, R44, R932). In
Protected Mode with NT clear it pops them to the same level, or to an outer one, whose SS:SP it pops too and which may null DS
and ES; IOPL and IF change as the level of before it allows (R615 to R618, R630, R632, R633). One that is not admitted changes
nothing: a word outside the stack raises interrupt 13, or #SS(0), an inner level or a segment that is not allowed #GP naming it,
one not present #NP; with NT set a back link that names no busy task state segment raises #TS naming it, one not present #NP
(R631). The reserved bits stay (log 17), CS is valid with limit FFFFH in Real Address Mode (log 52), the Accessed bit is set in the
cache too (log 53), a null back link is never looked up (log 67). -/
def Obligations.IretRestoresInRealMode : Prop :=
  (∀ s : State, s.plainMemory = true → s.pe = false → s.flags &&& 0x802A = 0x0002 →
    s.mayRead .ss s.sp.toNat 2 = true → s.mayRead .ss (s.sp + 2).toNat 2 = true → s.mayRead .ss (s.sp + 4).toNat 2 = true →
    ∀ image sel : Word, image.toNat = s.get (s.stackAt 4) → sel.toNat = s.get (s.stackAt 2) →
    Completes .iret s fun t =>
      t.ip.toNat = s.get (s.stackAt 0) ∧ RealSegment t.cs sel ∧ t.sp = s.sp + 6 ∧
      t.flags &&& 0x0FD5 = image &&& 0x0FD5 ∧ t.flags &&& 0xF02A = s.flags &&& 0xF02A ∧ t.nmiInService = false ∧
      SameRegs s t [.reg16 .sp] ∧ SameMemory s t [] ∧ SameSegments s t [.cs] ∧ SameTables s t ∧ t.msw = s.msw ∧ SameNpx s t) ∧
  (∀ s : State, s.pe = false → s.sp = 0xFFFF ∨ s.sp = 0xFFFD ∨ s.sp = 0xFFFB → Raises .iret s ⟨13, none⟩) ∧
  (∀ s : State, s.pe = true →
    (s.flag .nt = false →
      let rs := s.readWord (s.ss.addr (s.sp.toNat + 2))
      let room : Nat := if rpl rs = s.cpl then 6 else 10
      (s.ss.valid = true → s.withinSegment .ss (s.sp.toNat + 2) 2 = false → Raises .iret s (.ss 0)) ∧
      (s.mayRead .ss (s.sp.toNat + 2) 2 = true →
        (rpl rs < s.cpl → Raises .iret s (.gp rs)) ∧
        (s.cpl ≤ rpl rs → s.withinSegment .ss s.sp.toNat room = false → Raises .iret s (.ss 0)) ∧
        (s.cpl ≤ rpl rs → s.mayRead .ss s.sp.toNat room = true →
          (∀ x : Exn, s.codeRefused rs (returnLevel (rpl rs)) x → Raises .iret s x) ∧
          ∀ c : Desc, s.codeAt rs 0 c → returnLevel (rpl rs) c →
            (rpl rs = s.cpl → c.limit.toNat < (s.readWord (s.ss.addr s.sp.toNat)).toNat → Raises .iret s (.gp 0)) ∧
            ∀ x : Exn, s.cpl < rpl rs → s.stackRefused (s.readWord (s.ss.addr (s.sp.toNat + 8))) (rpl rs) x →
              Raises .iret s x))) ∧
    (s.flag .nt = true →
      let bl := s.wordIn s.tr.base 0
      (s.tr.limit.toNat < 1 → Raises .iret s (.ts s.tr.sel)) ∧
      (1 ≤ s.tr.limit.toNat →
        (isNull bl = true ∨ isLocal bl = true ∨ s.descriptor bl = none → Raises .iret s (.ts bl)) ∧
        ∀ d : Desc, isNull bl = false → isLocal bl = false → s.descriptor bl = some d →
          (d.type ≠ 3 → Raises .iret s (.ts bl)) ∧ (d.type = 3 → d.present = false → Raises .iret s (.np bl))))) ∧
  ∀ (s : State) (off rs image : Word) (c : Desc), s.plainMemory = true → s.pe = true → s.flag .nt = false →
    off = s.readWord (s.ss.addr s.sp.toNat) → rs = s.readWord (s.ss.addr (s.sp.toNat + 2)) →
    image = s.readWord (s.ss.addr (s.sp.toNat + 4)) →
    s.codeAt rs off c → (if c.conforming then c.dpl ≤ rpl rs else c.dpl = rpl rs) →
    let returned (t : State) : Prop :=
      t.ip = off ∧ LoadedFrom t.cs (withRpl rs (rpl rs)) c ∧ t.cpl = rpl rs ∧ FlagsPopped s t image ∧ t.nmiInService = false ∧
      SameRegs s t [.reg16 .sp] ∧ SameTables s t ∧ t.msw = s.msw ∧ SameNpx s t ∧ t.ioTrace = s.ioTrace ∧ Boundary s t
    (rpl rs = s.cpl → s.mayRead .ss s.sp.toNat 6 = true →
      Completes .iret s fun t =>
        returned t ∧ t.sp = s.sp + 6 ∧ SameMemory s t [.mem8 (c.addr + 5)] ∧ SameSegments s t [.cs]) ∧
    ∀ (nsp nss : Word) (d : Desc), s.cpl < rpl rs → s.mayRead .ss s.sp.toNat 10 = true →
      nsp = s.readWord (s.ss.addr (s.sp.toNat + 6)) → nss = s.readWord (s.ss.addr (s.sp.toNat + 8)) →
      isNull nss = false → s.descriptor nss = some d → rpl nss = rpl rs → d.dpl = rpl rs → d.writable = true → d.present = true →
      Completes .iret s fun t =>
        returned t ∧ LoadedFrom t.ss nss d ∧ t.sp = nsp ∧ KeptForLevel s s.ds t.ds (rpl rs) ∧ KeptForLevel s s.es t.es (rpl rs) ∧
        SameMemory s t [.mem8 (c.addr + 5), .mem8 (d.addr + 5)]

/-- Entry through a present interrupt or trap gate, of an INT n with CPL at most the gate's DPL and of an exception: FLAGS, CS
and the return offset are pushed, then the error code of an exception that has one; CS:IP comes from the gate, TF and NT are
cleared, and IF too for an interrupt gate. To a code segment of an inner level it goes to the stack that the task state
segment names and pushes the old SS and SP first (R595, R596, R625, R626, R627, R903, R911, R912, R914). The return offset is
that of the next instruction for INT n, the first byte of the instruction for an exception. The layout of a gate is log 18,
the Accessed bit in the cache log 53, the numbers of the class with EXT log 58. -/
def Obligations.GateToSameLevel : Prop :=
  ∀ (s : State) (c : Desc), s.plainMemory = true → s.pe = true →
    (∀ v : Byte,
      (s.sameReady v true c 3 → Completes (.int v) s fun t => EnteredSame s t v c s.ip [] ∧ Boundary s t) ∧
      ∀ (sp ss : Word) (d : Desc), s.innerReady v true c 5 sp ss d →
        Completes (.int v) s fun t => EnteredInner s t v c s.ip [] sp ss d ∧ Boundary s t) ∧
    ∀ (x : Exn) (r : State),
      let code := x.code.toList
      (s.sameReady x.vec false c (3 + code.length) →
        EnteredSame s (takeException x false s r) x.vec c s.istart code) ∧
      ∀ (sp ss : Word) (d : Desc), s.innerReady x.vec false c (5 + code.length) sp ss d →
        EnteredInner s (takeException x false s r) x.vec c s.istart code sp ss d

/-- A completed task switch. TR names the new task, MSW.TS is set, IP, FLAGS, the general registers and the selectors come from
the new task state segment, the code and stack segments are valid, and LDTR unless its selector is null; NT tells a nested task
from a jump and is as saved after IRET. The outgoing task's registers, with the offset it goes on at, lie in its own task state
segment, NT cleared by IRET. JMP and CALL mark the new descriptor busy, JMP and IRET the old one available, CALL stores the back
link. A far JMP or CALL that names an available task state segment, or a task gate, an INT n through a task gate and an IRET
with NT set make such a switch, with the offset of the next instruction (R594, R603, R604, R610, R611, R628, R631, R641, R642,
R644, R646 to R648). The layout of the task state segment is log 18; what NT becomes is D28, what a null LDT selector leaves D32
(log 60); whose busy bits change where a far JMP or CALL names a TSS descriptor of the LDT is log 62, that the selector of a task
gate is not tested for null log 67, that the access bytes of the incoming segments are written log 53. -/
def Obligations.TaskSwitchEntersTask : Prop :=
  (∀ (sel ip : Word) (d : Desc) (src : SwitchSource) (s t : State), switchTasks sel d src ip s = .ok () t →
    t.tr = { sel := sel, base := d.base, limit := d.limit, valid := true } ∧ t.ts = true ∧ t.cs.valid = true ∧
    t.ss.valid = true ∧ (src = .jmp → t.flag .nt = false) ∧ (src = .call → t.flag .nt = true) ∧ t.msw = s.msw ||| 8 ∧
    t.gdtr = s.gdtr ∧ t.idtr = s.idtr ∧ SameNpx s t ∧ SameLatches s t ∧
    (s.plainMemory = true → t.ioTrace = s.ioTrace ∧ (SwitchApart s t d →
      EntersTask s t d.base src ∧ LeavesTask s t ip src ∧
      t.readByte (d.addr + 5) = (if src = .iret then s.readByte (d.addr + 5) else d.access ||| 2) ∧
      t.readByte s.taskAccess = (if src = .call then s.readByte s.taskAccess else s.readByte s.taskAccess &&& 0xFD) ∧
      t.wordIn d.base 0 = (if src = .call then s.tr.sel else s.wordIn d.base 0) ∧
      SameMemory s t
        ((tssBytes s.tr.base 14 28 ++ tssBytes d.base 0 2 ++ [d.addr + 5, s.taskAccess] ++ t.accessBytes).map .mem8)))) ∧
  ∀ (i : Instr) (off sel tsel : Word) (d : Desc) (src : SwitchSource) (s u : State), s.pe = true →
    switchTasks tsel d src s.ip s = .ok () u → u.ip.toNat ≤ u.cs.limit.toNat →
    isLocal tsel = false ∨ tsel = sel → s.descriptor tsel = some d → d.present = true →
    let named : Prop := isNull sel = false ∧
      ((tsel = sel ∧ d.type = 1 ∧ s.cpl ≤ d.dpl ∧ rpl sel ≤ d.dpl) ∨
        ∃ g : Desc, s.descriptor sel = some g ∧ g.type = 5 ∧ s.cpl ≤ g.dpl ∧ rpl sel ≤ g.dpl ∧ g.present = true ∧
          tsel = g.selector ∧ isLocal tsel = false ∧ d.type = 1)
    (s.farOperand (.jmp <| .far · ·) (.jmp <| .ed ·) i off sel ∧ src = .jmp ∧ named ∨
        s.farOperand (.call <| .far · ·) (.call <| .ed ·) i off sel ∧ src = .call ∧ named →
      Completes i s fun t => t = u.ended s.tfAtStart .done) ∧
    (∀ v : Byte, i = .int v ∧ src = .call → 8 * v.toNat + 7 ≤ s.idtr.limit.toNat → (s.idtGate v).type = 5 →
      s.cpl ≤ (s.idtGate v).dpl → (s.idtGate v).present = true → tsel = (s.idtGate v).selector → isLocal tsel = false →
      d.type = 1 → Completes i s fun t => t = u.ended s.tfAtStart .done) ∧
    (i = .iret ∧ src = .iret → s.flag .nt = true → 1 ≤ s.tr.limit.toNat → tsel = s.wordIn s.tr.base 0 → isNull tsel = false →
      isLocal tsel = false → d.type = 3 → Completes i s fun t => t = ({ u with nmiInService := false } : State).ended s.tfAtStart .done)

/-! ## Flags, prefixes, frames -/

/-- CLC, STC, CMC, CLD and STD change one flag and nothing else; NOP changes nothing (R541 to R545, R550). -/
def Obligations.FlagInstructionsChangeOneFlag : Prop :=
  ∀ s : State,
    (∀ (i : Instr) (f : Flag) (b : Bool),
      (i, f, b) ∈ [(.clc, .cf, false), (.stc, .cf, true), (.cmc, .cf, !s.flag .cf), (.cld, .df, false), (.std, .df, true)] →
      Completes i s fun t => t.flag f = b ∧ Ordinary s t [] (1 <<< f.pos)) ∧
    (Completes .nop s fun t => Ordinary s t [] 0)

/-- CLI and STI change IF alone, with CPL at most IOPL; STI holds INTR off for one instruction if IF was clear, and not if it
was set (D26). HLT at privilege level 0 halts the processor (R547 to R549, R56, R58). At a boundary, or halted, or while an
instruction goes on, the pending event of highest priority is entered in place of the next instruction: single step, NMI,
interrupt 9, INTR, each if nothing holds it off; it ends a halt and saves the offset of the next instruction, or of the first byte
of the one that was going on (R911, R930 to R936, R940, R953). A halted processor without one stays halted; one in shutdown stays
there but for an NMI, which enters its handler if it can (R951). How NMI in service and the trap are kept is log 55, NMI in
shutdown log 49, D26 and D61 log 60, CS after an entry in Real Address Mode log 52, the Accessed bit in the cache log 53, the
layout of a gate log 18, EXT of an external event log 58. -/
def Obligations.InterruptFlagAndHalt : Prop :=
  (∀ s : State, s.pe = false ∨ s.cpl ≤ s.iopl →
    (Completes .cli s fun t => t.flag .ie = false ∧ Ordinary s t [] 0x0200) ∧
    Completes .sti s fun t =>
      t.flag .ie = true ∧ t.inhibitIntr = !s.flag .ie ∧ t.inhibitAll = false ∧ Frame s t [] 0x0200 ∧ Sequential s t) ∧
  (∀ s : State, s.cpl = 0 → Completes .hlt s fun t =>
    t.run = .halted ∧ SameRegs s t [] ∧ SameMemory s t [] ∧ SameFlags s t 0 ∧ SameSegments s t [] ∧ SameTables s t ∧
    t.msw = s.msw ∧ SameNpx s t ∧ Sequential s t ∧ Boundary s t) ∧
  (∀ s : State, s.input.reset = false → s.plainMemory = true →
    let u := s.sampled
    let trap : Bool := s.stepPending && !s.inhibitAll
    let nmi : Bool := (s.nmiPending || s.input.nmi) && !s.nmiInService && !s.inhibitAll
    let overrun : Bool := s.mpPending && !s.nmiInService && !s.inhibitAll
    let intr : Bool := s.input.intr && s.flag .ie && !s.inhibitAll && !s.inhibitIntr
    (s.run = .running ∧ s.pfx.count = 0 ∨ s.run = .halted →
      (∀ (v : Byte) (w : State),
        (trap = true ∧ v = 1 ∧ w = { u with stepPending := false }) ∨
        (trap = false ∧ nmi = true ∧ v = 2 ∧ w = { u with nmiPending := false, nmiInService := true }) ∨
        (trap = false ∧ nmi = false ∧ overrun = true ∧ v = 9 ∧ w = { u with mpPending := false }) ∨
        (trap = false ∧ nmi = false ∧ overrun = false ∧ intr = true ∧ v = s.input.vector ∧ w = u) →
        let begun : State := { w with run := .running, held := none }
        let kept (t : State) : Prop := t.pfx = s.pfx ∧ t.inhibitAll = s.inhibitAll ∧ t.inhibitIntr = s.inhibitIntr ∧
          t.stepPending = w.stepPending ∧ t.inputs = s.inputs.tail
        (u.realEntryReady v = true → ∃ t, step s = .next t ∧ EnteredReal begun t v s.ip ∧ kept t) ∧
        (s.pe = true →
          (∀ c : Desc, u.sameReady v false c 3 → ∃ t, step s = .next t ∧ EnteredSame begun t v c s.ip [] ∧ kept t) ∧
          ∀ (sp ss : Word) (c d : Desc), u.innerReady v false c 5 sp ss d →
            ∃ t, step s = .next t ∧ EnteredInner begun t v c s.ip [] sp ss d ∧ kept t)) ∧
      (s.run = .halted → trap = false → nmi = false → overrun = false → intr = false → step s = .next u)) ∧
    (s.run = .shutdown →
      let asked : Bool := (s.nmiPending || s.input.nmi) && !s.nmiInService
      let w : State := { u with nmiPending := false, nmiInService := true }
      (asked = false → step s = .next u) ∧
      (asked = true → s.pe = false →
        (15 ≤ s.idtr.limit.toNat → 5 < s.sp.toNat →
          ∃ t, step s = .next t ∧ EnteredReal { w with run := .running } t 2 s.ip) ∧
        (s.idtr.limit.toNat < 15 ∨ s.sp.toNat ≤ 5 → step s = .next w)) ∧
      (asked = true → s.pe = true →
        (∀ c : Desc, u.sameReady 2 false c 3 → ∃ t, step s = .next t ∧ EnteredSame { w with run := .running } t 2 c s.ip []) ∧
        (s.idtr.limit.toNat < 23 → ∃ n : Nat, step s = .next { w with free := n }))))

/-- A prefix byte is recorded for the instruction that follows, and nothing else changes; LOCK needs CPL at most IOPL (R252, R265,
R480, R553). That the last prefix of its class takes effect is D14 (log 50), that a prefix is a step of its own log 1. -/
def Obligations.PrefixesAreRecorded : Prop :=
  ∀ (i : Instr) (p : Prefixes) (s : State),
    (i = .segEs ∧ p = { s.pfx with seg := some .es }) ∨ (i = .segCs ∧ p = { s.pfx with seg := some .cs }) ∨
    (i = .segSs ∧ p = { s.pfx with seg := some .ss }) ∨ (i = .segDs ∧ p = { s.pfx with seg := some .ds }) ∨
    (i = .rep ∧ p = { s.pfx with rep := some .rep }) ∨ (i = .repne ∧ p = { s.pfx with rep := some .repne }) ∨
    (i = .lock ∧ p = { s.pfx with lock := true } ∧ (s.pe = false ∨ s.cpl ≤ s.iopl)) →
    Completes i s fun t =>
      t.pfx = { p with count := s.pfx.count + 1 } ∧ Frame s t [] 0 ∧ Sequential s t ∧ t.istart = s.istart ∧
      t.tfAtStart = s.tfAtStart ∧ t.held = s.held ∧ t.inhibitAll = s.inhibitAll ∧ t.inhibitIntr = s.inhibitIntr ∧ t.inputs = s.inputs

/-- ENTER pushes BP, makes the pushed word's offset the new BP, copies the display of the level, the words at SS:BP-2, SS:BP-4, ...
in that order, then pushes the new BP, and reserves the local bytes; LEAVE undoes the frame (R555, R556). The display words are
those of before the instruction where no word pushed before lies over them. That Real Address Mode leaves the local area
untested is D25 (log 44). -/
def Obligations.EnterAndLeaveFrames : Prop :=
  ∀ s : State, s.plainMemory = true →
    (∀ (size : Word) (level : Byte),
      let k := level.toNat % 32
      let words := if k = 0 then 1 else k + 1
      let low := s.sp - BitVec.ofNat 16 (2 * words)
      (∀ j : Nat, j < words → s.mayWrite .ss (s.sp - BitVec.ofNat 16 (2 * j + 2)).toNat 2 = true) →
      (∀ j : Nat, 0 < j → j < k → s.mayRead .ss (s.bp - BitVec.ofNat 16 (2 * j)).toNat 2 = true) →
      (s.pe = true → size ≠ 0 →
        size.toNat ≤ low.toNat ∧ s.mayWrite .ss (low.toNat - size.toNat) size.toNat = true) →
      Completes (.enter size level) s fun t =>
        t.bp = s.sp - 2 ∧ t.sp = low - size ∧ t.get (s.stackAt (-2)) = s.bp.toNat ∧
        (k ≠ 0 → t.get (s.stackAt (-BitVec.ofNat 16 (2 * words))) = (s.sp - 2).toNat) ∧
        (∀ j : Nat, 0 < j → j < k →
          let a := s.ss.addr (s.bp - BitVec.ofNat 16 (2 * j)).toNat
          apartFrom a s.ss s.sp j = true → apartFrom (a + 1) s.ss s.sp j = true →
          t.get (s.stackAt (-BitVec.ofNat 16 (2 * j + 2))) = (s.readWord a).toNat) ∧
        Ordinary s t
          ([.reg16 .sp, .reg16 .bp] ++ (List.range words).map fun j => s.stackAt (-BitVec.ofNat 16 (2 * j + 2))) 0) ∧
    (s.mayRead .ss s.bp.toNat 2 = true →
      Completes .leave s fun t =>
        t.sp = s.bp + 2 ∧ t.bp = s.readWord (s.ss.addr s.bp.toNat) ∧ Ordinary s t [.reg16 .sp, .reg16 .bp] 0)

/-- BOUND does nothing while the register lies between the two signed words in memory, and raises interrupt 5 otherwise. WAIT: #NM
with MP and TS; else it waits while the 80287 is busy; else #MF with an unmasked exception pending, unless EM is set; else it does
nothing (R557, R561, R920, R922, R929). That WAIT ends a step with each poll, and is held for the next, is log 1. -/
def Obligations.BoundAndWaitTest : Prop :=
  (∀ (r : Reg16) (m : Mem) (s : State),
    s.mayRead (s.memSeg m) (s.ea m).toNat 2 = true → s.mayRead (s.memSeg m) ((s.ea m).toNat + 2) 2 = true →
    let lo := (s.readWord (s.operandAddr m 0)).toInt
    let hi := (s.readWord (s.operandAddr m 1)).toInt
    let x := (s.reg16 r).toInt
    (lo ≤ x ∧ x ≤ hi → Completes (.bound r m) s fun t => Ordinary s t [] 0) ∧
    (x < lo ∨ hi < x → Raises (.bound r m) s .br)) ∧
  (∀ s : State,
    (s.mp = true ∧ s.ts = true → Raises .wait s .nm) ∧
    (s.mp = false ∨ s.ts = false →
      (s.npxPresent = true ∧ s.npx.busy = true →
        Completes .wait s fun t => GoesOn .wait s t ∧ Frame s t [] 0) ∧
      (s.npxPresent = false ∨ s.npx.busy = false →
        (s.em = false ∧ s.npxPresent = true ∧ s.npx.es = true → Raises .wait s .mf) ∧
        (s.em = true ∨ s.npxPresent = false ∨ s.npx.es = false → Completes .wait s fun t => Ordinary s t [] 0))))

/-! ## System instructions -/

/-- SGDT and SIDT store limit and base, the sixth byte being open; LGDT and LIDT load them at privilege level 0, ignoring the
sixth byte (R661, R662, U12). The sixth byte is log 56. -/
def Obligations.DescriptorTableRegisters : Prop :=
  ∀ (m : Mem) (s : State), s.plainMemory = true →
    let a (k : Nat) : Addr := (s.seg (s.memSeg m)).addr ((s.ea m).toNat + k)
    ((∀ k ∈ [0, 2, 4], s.mayWrite (s.memSeg m) ((s.ea m).toNat + k) 2 = true) →
      ∀ (i : Instr) (r : TableReg), (i = .sgdt m ∧ r = s.gdtr) ∨ (i = .sidt m ∧ r = s.idtr) →
        Completes i s fun t =>
          t.get (.mem16 (a 0)) = r.limit.toNat ∧
          t.get (.mem16 (a 2)) + 65536 * t.get (.mem8 (a 4)) = r.base.toNat ∧
          Ordinary s t [.mem16 (a 0), .mem16 (a 2), .mem16 (a 4)] 0) ∧
    ((∀ k ∈ [0, 2, 4], s.mayRead (s.memSeg m) ((s.ea m).toNat + k) 2 = true) → s.cpl = 0 →
      ∀ i : Instr, i = .lgdt m ∨ i = .lidt m →
        Completes i s fun t =>
          (if i = .lgdt m then t.gdtr else t.idtr).limit.toNat = s.get (.mem16 (a 0)) ∧
          (if i = .lgdt m then t.gdtr else t.idtr).base.toNat = s.get (.mem16 (a 2)) + 65536 * s.get (.mem8 (a 4)) ∧
          (if i = .lgdt m then t.idtr = s.idtr else t.gdtr = s.gdtr) ∧ t.ldtr = s.ldtr ∧ t.tr = s.tr ∧ t.msw = s.msw ∧
          SameRegs s t [] ∧ SameMemory s t [] ∧ SameFlags s t 0 ∧ SameSegments s t [] ∧ SameLatches s t ∧ SameNpx s t ∧
          Sequential s t ∧ Boundary s t)

/-- SMSW stores MSW; LMSW loads its four low bits at privilege level 0 but cannot clear PE; CLTS clears TS. Setting PE while
CS selector bits 1:0 are not zero is refused (R667, R668, R669, U22). Bits 15 to 4 are log 51, the refusal log 47. -/
def Obligations.MachineStatusWord : Prop :=
  ∀ s : State,
    (∀ e : Ew, s.plainMemory = true → s.writable e 2 = true →
      Completes (.smsw e) s fun t => t.get (s.locEw e) = s.msw.toNat ∧ Ordinary s t [s.locEw e] 0) ∧
    (∀ (e : Ew) (v : Word), s.cpl = 0 → s.readable e 2 = true → v.toNat = s.get (s.locEw e) →
      let enters := !s.pe && v.getLsbD 0
      (enters = true ∧ rpl s.cs.sel ≠ 0 → exec (.lmsw e) s = .refused .protectedModeCpl) ∧
      (enters = false ∨ rpl s.cs.sel = 0 →
        Completes (.lmsw e) s fun t =>
          t.pe = (s.pe || v.getLsbD 0) ∧ t.mp = v.getLsbD 1 ∧ t.em = v.getLsbD 2 ∧ t.ts = v.getLsbD 3 ∧
          t.msw &&& 0xFFF0 = s.msw &&& 0xFFF0 ∧
          SameRegs s t [] ∧ t.mem = s.mem ∧ t.platform = s.platform ∧ SameFlags s t 0 ∧ SameSegments s t [] ∧
          SameTables s t ∧ SameLatches s t ∧ SameNpx s t ∧ Sequential s t ∧ Boundary s t)) ∧
    (s.cpl = 0 → Completes .clts s fun t =>
      t.msw = s.msw &&& 0xFFF7 ∧
      SameRegs s t [] ∧ SameMemory s t [] ∧ SameFlags s t 0 ∧ SameSegments s t [] ∧ SameTables s t ∧ SameLatches s t ∧
      SameNpx s t ∧ Sequential s t ∧ Boundary s t)

/-- SLDT and STR store the selectors. LLDT loads a present LDT descriptor of the GDT, or, from a null selector, makes LDTR not
valid; LTR loads a present available TSS descriptor and marks it busy in memory. A selector of the LDT, one outside the GDT or one
of another descriptor, a busy TSS among them, raises #GP naming it, one not present #NP, and a null one given to LTR #GP(0) (R663
to R666). -/
def Obligations.LdtAndTaskRegisters : Prop :=
  ∀ (e : Ew) (s : State), s.pe = true → s.plainMemory = true →
    let rest (t : State) : Prop :=
      SameRegs s t [] ∧ SameFlags s t 0 ∧ SameSegments s t [] ∧ SameLatches s t ∧ SameNpx s t ∧ t.msw = s.msw ∧
      t.gdtr = s.gdtr ∧ t.idtr = s.idtr ∧ Sequential s t ∧ Boundary s t
    (s.writable e 2 = true →
      (Completes (.sldt e) s fun t => t.get (s.locEw e) = s.ldtr.sel.toNat ∧ Ordinary s t [s.locEw e] 0) ∧
      Completes (.str e) s fun t => t.get (s.locEw e) = s.tr.sel.toNat ∧ Ordinary s t [s.locEw e] 0) ∧
    (∀ sel : Word, s.readable e 2 = true → sel.toNat = s.get (s.locEw e) → s.cpl = 0 →
      (isNull sel = true →
        Completes (.lldt e) s fun t =>
          t.ldtr.sel = sel ∧ t.ldtr.valid = false ∧ t.tr = s.tr ∧ SameMemory s t [] ∧ rest t) ∧
      ∀ d : Desc, isNull sel = false → isLocal sel = false → s.descriptor sel = some d → d.present = true →
        (d.type = 2 → Completes (.lldt e) s fun t =>
          t.ldtr = { sel := sel, base := d.base, limit := d.limit, valid := true } ∧ t.tr = s.tr ∧ SameMemory s t [] ∧
          rest t) ∧
        (d.type = 1 → Completes (.ltr e) s fun t =>
          t.tr = { sel := sel, base := d.base, limit := d.limit, valid := true } ∧ t.ldtr = s.ldtr ∧
          t.readByte (d.addr + 5) = d.access ||| 2 ∧ SameMemory s t [.mem8 (d.addr + 5)] ∧ rest t)) ∧
    ∀ sel : Word, s.readable e 2 = true → sel.toNat = s.get (s.locEw e) → s.cpl = 0 →
      (isNull sel = true → Raises (.ltr e) s (.gp 0)) ∧
      (isNull sel = false → isLocal sel = true ∨ s.descriptor sel = none →
        Raises (.lldt e) s (.gp sel) ∧ Raises (.ltr e) s (.gp sel)) ∧
      ∀ d : Desc, isNull sel = false → isLocal sel = false → s.descriptor sel = some d →
        (d.type ≠ 2 → Raises (.lldt e) s (.gp sel)) ∧ (d.type = 2 → d.present = false → Raises (.lldt e) s (.np sel)) ∧
        (d.type ≠ 1 → Raises (.ltr e) s (.gp sel)) ∧ (d.type = 1 → d.present = false → Raises (.ltr e) s (.np sel))

/-- ARPL raises the RPL field of its destination to that of its source; VERR, VERW, LAR and LSL tell through ZF whether the
selector names a descriptor that the caller may use so, and never fault on a bad selector (R670 to R675). D34 to D36 are logs
57 and 60. -/
def Obligations.SelectorTests : Prop :=
  ∀ (e : Ew) (r : Reg16) (sel : Word) (s : State), s.pe = true → s.readable e 2 = true → sel.toNat = s.get (s.locEw e) →
    let may (p : Desc → Bool) : Bool := (s.definedDesc sel).any fun d => p d && s.visible sel d
    (s.plainMemory = true → s.writable e 2 = true →
      Completes (.arpl e r) s fun t =>
        t.flag .zf = decide (rpl sel < rpl (s.reg16 r)) ∧
        t.get (s.locEw e) = (if rpl sel < rpl (s.reg16 r) then withRpl sel (rpl (s.reg16 r)) else sel).toNat ∧
        Ordinary s t [s.locEw e] 0x0040) ∧
    (Completes (.verr e) s fun t => t.flag .zf = may (·.readable) ∧ Ordinary s t [] 0x0040) ∧
    (Completes (.verw e) s fun t => t.flag .zf = may (·.writable) ∧ Ordinary s t [] 0x0040) ∧
    (Completes (.lar r e) s fun t =>
      t.flag .zf = may (fun _ => true) ∧
      (∀ d : Desc, t.flag .zf = true → s.definedDesc sel = some d → (t.reg16 r).toNat = 256 * d.access.toNat) ∧
      (t.flag .zf = false → t.reg16 r = s.reg16 r) ∧ Ordinary s t [.reg16 r] 0x0040) ∧
    Completes (.lsl r e) s fun t =>
      t.flag .zf = may (·.hasLimit) ∧
      (∀ d : Desc, t.flag .zf = true → s.definedDesc sel = some d → t.reg16 r = d.limit) ∧
      (t.flag .zf = false → t.reg16 r = s.reg16 r) ∧ Ordinary s t [.reg16 r] 0x0040

/-- In Protected Mode, the privileged instructions raise #GP(0) unless CPL is 0, the trusted ones unless CPL is at most IOPL; in
Real Address Mode the instructions of protection are undefined opcodes (R165, R660). That the test comes before the operand's is
D33 (log 57), that of LOCK at the prefix log 1. -/
def Obligations.PrivilegeIsTested : Prop :=
  ∀ (i : Instr) (s : State),
    (s.pe = true → s.cpl ≠ 0 →
      i = .hlt ∨ i = .clts ∨ (∃ m : Mem, i = .lgdt m ∨ i = .lidt m) ∨ (∃ e : Ew, i = .lldt e ∨ i = .ltr e ∨ i = .lmsw e) →
      Raises i s (.gp 0)) ∧
    (s.pe = true → s.iopl < s.cpl → s.pfx.rep = none →
      i = .cli ∨ i = .sti ∨ i = .lock ∨ (∃ f : PortForm, i = .inp f ∨ i = .outp f) ∨
        i ∈ [Instr.insb, .insw, .outsb, .outsw] →
      Raises i s (.gp 0)) ∧
    (s.pe = false →
      (∃ e : Ew, i = .sldt e ∨ i = .str e ∨ i = .lldt e ∨ i = .ltr e ∨ i = .verr e ∨ i = .verw e) ∨
        (∃ (e : Ew) (r : Reg16), i = .arpl e r ∨ i = .lar r e ∨ i = .lsl r e) →
      Raises i s .ud)

/-! ## The 80287 -/

/-- Every ESC raises #NM while EM or TS is set, and every one but those of the no-wait group raises #MF while the 80287
reports an unmasked exception, and waits while it is busy. An operand whose first word lies within its segment, but a later one
does not, latches interrupt 9 and leaves the 80287 busy: an instruction that loads has moved nothing to memory, one that stores
only the words before, and the pointers name a numeric instruction and its operand (R560, R727, R771, R773, R922, R924, R929). The
no-wait group is as D27 decides (log 57); that a wait is a step of its own is log 1, the rest of the 80287 after an overrun log 28,
which instructions record the pointers log 27. -/
def Obligations.EscapesTrap : Prop :=
  (∀ (i : Instr) (s : State), i.wf = true → isEsc i = true →
    (s.em = true ∨ s.ts = true → Raises i s .nm) ∧
    (s.em = false → s.ts = false → s.npxPresent = true → s.npx.busy = false → s.npx.es = true →
      i ∉ [Instr.finit, .fsetpm, .fstswAx, .fclex, .feni, .fdisi] →
      (∀ m : Mem, i ≠ .fstcw m ∧ i ≠ .fstsw m ∧ i ≠ .fstenv m ∧ i ≠ .fsave m) → Raises i s .mf) ∧
    (s.npxReachable = true → s.npx.busy = true →
      i ∉ [Instr.finit, .fsetpm, .fstswAx, .fclex, .feni, .fdisi] → (∀ m : Mem, i ≠ .fstcw m ∧ i ≠ .fstsw m) →
      (∀ m : Mem, i = .fstenv m ∨ i = .fsave m → s.mayWrite (s.memSeg m) (s.ea m).toNat 2 = true) →
      Completes i s fun t => GoesOn i s t ∧ Frame s t [] 0)) ∧
  ∀ (i : Instr) (m : Mem) (n k : Nat) (s : State), s.npxReady = true → s.leavesSegment m n k →
    let point (t : State) : Prop := Points s t i ∧ PointsOperand s t m
    (∀ numeric : Bool, s.movesIn i m n numeric → s.mayRead (s.memSeg m) (s.ea m).toNat 2 = true →
      Completes i s fun t => Overran s t [] ∧ (numeric = true → point t)) ∧
    (s.plainMemory = true → s.mayWrite (s.memSeg m) (s.ea m).toNat 2 = true →
      (i = .fstp (.m80 m) → n = 5 → s.npx.isEmpty 0 = false → Completes i s fun t =>
        Overran s t (s.operandLocs m k) ∧ point t ∧
        ∀ j : Nat, j < k → t.readWord (s.operandAddr m j) = (s.npx.st 0).extractLsb' (16 * j) 16) ∧
      (i = .fstenv m ∧ n = 7 ∨ i = .fsave m ∧ n = 47 → Completes i s fun t =>
        Overran s t (s.operandLocs m k) ∧ t.readWord (s.operandAddr m 0) = s.npx.control))

/-- Short and long reals that are normal, two's complement integers, and packed decimals are widened without loss (R741 to R743,
R745). -/
def Obligations.MemoryFormatsAreExact : Prop :=
  (∀ (f : RealFormat) (img : Nat), f = shortReal ∨ f = longReal → img < 2 ^ (f.frac + f.ebits + 1) →
    let (neg, e, m) := f.fields img
    0 < e → e < 2 ^ f.ebits - 1 →
    classOf (f.widen img) = .normal ∧
    (valueOf (f.widen img)).same { neg := neg, mant := 2 ^ f.frac + m, exp := (e : Int) - f.bias - f.frac }) ∧
  (∀ (n img : Nat), n = 16 ∨ n = 32 ∨ n = 64 → img < 2 ^ n →
    normalOrZero (integerTemp n img) = true ∧
    (valueOf (integerTemp n img)).isInt (signedOf n img)) ∧
  ∀ (img x : Nat) (t : Temp), unpackDigits 18 (img % 2 ^ 72) = some x → packedTemp img = some t →
    normalOrZero t = true ∧ (valueOf t).same { neg := img.testBit 79, mant := x, exp := 0 }

/-- FLD, FILD and FBLD push what their operand holds onto a stack that is not full; a denormal in memory sets the flag of a
masked D (R805, R809, R812, R727, R773). On a full stack, and from an Empty register, loads and constants signal I; masked,
they push real indefinite, unmasked they push nothing (R761, R762). Which instructions record the pointers is log 27; that a NaN
or an infinity is loaded without exception is D52 (log 41), that C3 to C0 stay D39 (log 24). -/
def Obligations.NumericLoadsPushOperand : Prop :=
  (∀ (i : Instr) (v : Temp) (denormal : Bool) (m : Option Mem) (s : State), s.npxReady = true → s.npx.isEmpty 7 = true →
    (∃ k : BitVec 3, i = .fld (.st k) ∧ s.npx.isEmpty k = false ∧ v = s.npx.st k ∧ denormal = false ∧ m = none) ∨
    (∃ (a : Mem) (n img : Nat), m = some a ∧ s.operandIn a n = true ∧ img = s.operandImage a n ∧
      ((i = .fld (.m32 a) ∧ n = 2 ∧ v = shortReal.widen img ∧ denormal = shortReal.isDenormal img) ∨
        (i = .fld (.m64 a) ∧ n = 4 ∧ v = longReal.widen img ∧ denormal = longReal.isDenormal img) ∨
        (i = .fld (.m80 a) ∧ n = 5 ∧ v = BitVec.ofNat 80 img ∧ denormal = decide (classOf v = .denormal)) ∨
        (i = .fild (.m16 a) ∧ n = 1 ∧ v = integerTemp 16 img ∧ denormal = false) ∨
        (i = .fild (.m32 a) ∧ n = 2 ∧ v = integerTemp 32 img ∧ denormal = false) ∨
        (i = .fild (.m64 a) ∧ n = 4 ∧ v = integerTemp 64 img ∧ denormal = false) ∨
        (i = .fbld a ∧ n = 5 ∧ packedTemp img = some v ∧ denormal = false))) →
    (denormal = true → s.npx.masks .d = true) →
    Completes i s fun t =>
      Pushed s.npx t.npx v ∧ t.npx.status.getLsbD 1 = (s.npx.status.getLsbD 1 || denormal) ∧ Numeric s t i m [] 0x3802) ∧
  ∀ (i : Instr) (m : Option Mem) (s : State), s.npxReady = true →
    (∃ k : BitVec 3, i = .fld (.st k) ∧ m = none ∧ (s.npx.isEmpty 7 = false ∨ s.npx.isEmpty k = true)) ∨
    (s.npx.isEmpty 7 = false ∧
      ((∃ a : Mem, m = some a ∧
        (i = .fild (.m16 a) ∧ s.operandIn a 1 = true ∨ i = .fild (.m32 a) ∧ s.operandIn a 2 = true ∨
          i = .fild (.m64 a) ∧ s.operandIn a 4 = true ∨ i = .fbld a ∧ s.operandIn a 5 = true ∨
          i = .fld (.m32 a) ∧ s.operandIn a 2 = true ∧ shortReal.isDenormal (s.operandImage a 2) = false ∨
          i = .fld (.m64 a) ∧ s.operandIn a 4 = true ∧ longReal.isDenormal (s.operandImage a 4) = false ∨
          i = .fld (.m80 a) ∧ s.operandIn a 5 = true ∧ classOf (BitVec.ofNat 80 (s.operandImage a 5)) ≠ .denormal)) ∨
      m = none ∧ i ∈ [Instr.fldz, .fld1, .fldpi, .fldl2t, .fldl2e, .fldlg2, .fldln2])) →
    Completes i s fun t =>
      (if s.npx.masks .i then Pushed s.npx t.npx indefinite else SameStack s.npx t.npx) ∧ StatusBits s t 1 ∧
      Numeric s t i m [] 0x3801

/-- The constant instructions push their constants onto a stack that is not full: +0.0, +1.0, and the others rounded to
nearest as temporary reals (R855 to R862; the irrational ones are given by their significands in the spec's G9). The constants
are log 20, the pointers log 27; that C3 to C0 stay is D39 (log 24). -/
def Obligations.NumericConstants : Prop :=
  ∀ (i : Instr) (v : Temp) (s : State), s.npxReady = true → s.npx.isEmpty 7 = true →
    (i, v) ∈
      [(Instr.fldz, (0 : Temp)), (.fld1, 0x3FFF8000000000000000), (.fldpi, 0x4000C90FDAA22168C235),
        (.fldl2t, 0x4000D49A784BCD1B8AFE), (.fldl2e, 0x3FFFB8AA3B295C17F0BC), (.fldlg2, 0x3FFD9A209A84FBCFF799),
        (.fldln2, 0x3FFEB17217F7D1CF79AC)] →
    Completes i s fun t => Pushed s.npx t.npx v ∧ Numeric s t i none [] 0x3800

/-- FST, FSTP, FIST, FISTP and FBSTP of a register that holds a number the format represents store exactly that number,
without an exception flag; FSTP of a temporary real stores any register bit for bit; the popping forms pop (R806, R807, R810,
R811, R813). A normal number is rounded by RC to the format's precision; above its range O, below it U, and masked the infinity
or largest number, or the denormal; P where it is inexact. Integers are rounded by RC; what the format cannot hold is I, and
masked the format's indefinite. FBSTP rounds half away from zero whatever RC is (D54); where that is inexact P is set or not (R747,
R813: log 30), and it keeps the sign (of a negative value that rounds to zero too: log 68); more than eighteen digits are I. An unmasked I, O or U stores
nothing and does not pop (R746 to R748, R756, R761, R762, R764 to R766). The pointers are log 27; that C3 to C0 stay is D39
(log 24), where overflow is tested D46 (log 41), the packed indefinite D44 (log 35). -/
def Obligations.NumericStoresOfRepresentableValues : Prop :=
  (∀ (i : Instr) (m : Mem) (n img : Nat) (pops : Bool) (s : State), s.npxReady = true → s.npx.isEmpty 0 = false →
    s.plainMemory = true → s.operandOut m n = true → img < 2 ^ (16 * n) →
    (n = 2 ∧ (i = .fst (.m32 m) ∧ pops = false ∨ i = .fstp (.m32 m) ∧ pops = true) ∧
      shortReal.isDenormal img = false ∧ s.npx.st 0 = shortReal.widen img) ∨
    (n = 4 ∧ (i = .fst (.m64 m) ∧ pops = false ∨ i = .fstp (.m64 m) ∧ pops = true) ∧
      longReal.isDenormal img = false ∧ s.npx.st 0 = longReal.widen img) ∨
    (n = 5 ∧ i = .fstp (.m80 m) ∧ pops = true ∧ s.npx.st 0 = BitVec.ofNat 80 img) ∨
    ((n = 1 ∧ (i = .fist (.m16 m) ∧ pops = false ∨ i = .fistp (.m16 m) ∧ pops = true) ∨
      n = 2 ∧ (i = .fist (.m32 m) ∧ pops = false ∨ i = .fistp (.m32 m) ∧ pops = true) ∨
      n = 4 ∧ i = .fistp (.m64 m) ∧ pops = true) ∧ s.npx.st 0 = integerTemp (16 * n) img) ∨
    (n = 5 ∧ i = .fbstp m ∧ pops = true ∧ img / 2 ^ 72 % 128 = 0 ∧ packedTemp img = some (s.npx.st 0)) →
    Completes i s fun t =>
      t.imageAt (s.operandAddr m) n = img ∧ (if pops then Popped s.npx t.npx else SameStack s.npx t.npx) ∧
      Numeric s t i (some m) (s.operandLocs m n) 0x3800) ∧
  (∀ (i : Instr) (m : Mem) (f : RealFormat) (n : Nat) (pops : Bool) (s : State), s.npxReady = true →
    s.plainMemory = true → s.operandOut m n = true → s.npx.isEmpty 0 = false → classOf (s.npx.st 0) = .normal →
    (f = shortReal ∧ n = 2 ∧ (i = .fst (.m32 m) ∧ pops = false ∨ i = .fstp (.m32 m) ∧ pops = true)) ∨
    (f = longReal ∧ n = 4 ∧ (i = .fst (.m64 m) ∧ pops = false ∨ i = .fstp (.m64 m) ∧ pops = true)) →
    let v := valueOf (s.npx.st 0)
    let rc := roundingOf s.npx.control
    let r := v.rounded rc (f.frac + 1) 0
    let inexact (b : Bool) : Word := if b then 0x20 else 0
    let stored (t : State) (img : Nat) (bits : Word) : Prop :=
      t.imageAt (s.operandAddr m) n = img ∧ (if pops then Popped s.npx t.npx else SameStack s.npx t.npx) ∧
      StatusBits s t bits ∧ Numeric s t i (some m) (s.operandLocs m n) 0x3838
    let refused (t : State) (bits : Word) : Prop :=
      SameStack s.npx t.npx ∧ StatusBits s t bits ∧ Numeric s t i (some m) [] 0x0018
    (1 - (f.bias : Int) ≤ v.top → r.top ≤ f.bias → Completes i s fun t =>
      stored t (f.image v.neg (r.top + f.bias).toNat (r.sig / 2 ^ (63 - f.frac) - 2 ^ f.frac)) (inexact r.inexact)) ∧
    (1 - (f.bias : Int) ≤ v.top → (f.bias : Int) < r.top → Completes i s fun t =>
      if s.npx.masks .o then
        stored t (if overflowIsInfinite rc v.neg then f.infinity v.neg else f.largest v.neg) 0x28
      else refused t 8) ∧
    (v.top < 1 - (f.bias : Int) → Completes i s fun t =>
      if s.npx.masks .u then
        ∃ (q : Nat) (b : Bool), RoundsTo rc v q (1 - (f.bias : Int) - f.frac) b ∧
          stored t (f.image v.neg 0 q) (0x10 ||| inexact b)
      else refused t 0x10)) ∧
  ∀ (i : Instr) (m : Mem) (n : Nat) (pops : Bool) (s : State), s.npxReady = true → s.plainMemory = true →
    s.operandOut m n = true →
    let v := valueOf (s.npx.st 0)
    let integer : Prop := (n = 1 ∧ (i = .fist (.m16 m) ∧ pops = false ∨ i = .fistp (.m16 m) ∧ pops = true)) ∨
      (n = 2 ∧ (i = .fist (.m32 m) ∧ pops = false ∨ i = .fistp (.m32 m) ∧ pops = true)) ∨
      (n = 4 ∧ i = .fistp (.m64 m) ∧ pops = true)
    (∀ (q : Nat) (b : Bool), integer → s.npx.isEmpty 0 = false → normalOrZero (s.npx.st 0) = true →
      RoundsTo (roundingOf s.npx.control) v q 0 b → (if v.neg then q ≤ 2 ^ (16 * n - 1) else q < 2 ^ (16 * n - 1)) →
      Completes i s fun t =>
        t.imageAt (s.operandAddr m) n = (if v.neg then (2 ^ (16 * n) - q) % 2 ^ (16 * n) else q) ∧
        (if pops then Popped s.npx t.npx else SameStack s.npx t.npx) ∧ StatusBits s t (if b then 0x20 else 0) ∧
        Numeric s t i (some m) (s.operandLocs m n) 0x3820) ∧
    (∀ (q : Nat) (b : Bool), i = .fbstp m → n = 5 → s.npx.isEmpty 0 = false → normalOrZero (s.npx.st 0) = true →
      RoundsHalfUp v q b → q < 10 ^ 18 →
      Completes i s fun t =>
        (∀ j : Nat, j < 18 → t.imageAt (s.operandAddr m) n / 16 ^ j % 16 = q / 10 ^ j % 10) ∧
        t.imageAt (s.operandAddr m) n / 16 ^ 18 = (if v.neg then 0x80 else 0) ∧
        Popped s.npx t.npx ∧ (StatusBits s t 0 ∨ b = true ∧ StatusBits s t 0x20) ∧
        Numeric s t i (some m) (s.operandLocs m n) 0x3820) ∧
    ∀ img : Nat,
      (integer ∧ img = 2 ^ (16 * n - 1) ∧
        (s.npx.isEmpty 0 = true ∨ normalOrZero (s.npx.st 0) = false ∨
          ∃ (q : Nat) (b : Bool), RoundsTo (roundingOf s.npx.control) v q 0 b ∧
            (if v.neg then 2 ^ (16 * n - 1) < q else 2 ^ (16 * n - 1) ≤ q))) ∨
      (i = .fbstp m ∧ n = 5 ∧ pops = true ∧ img = 0xFFFF * 2 ^ 64 ∧
        (s.npx.isEmpty 0 = true ∨ normalOrZero (s.npx.st 0) = false ∨
          ∃ (q : Nat) (b : Bool), RoundsHalfUp v q b ∧ 10 ^ 18 ≤ q)) ∨
      (s.npx.isEmpty 0 = true ∧
        ((i = .fst (.m32 m) ∧ pops = false ∨ i = .fstp (.m32 m) ∧ pops = true) ∧ n = 2 ∧ img = 0xFFC00000 ∨
          (i = .fst (.m64 m) ∧ pops = false ∨ i = .fstp (.m64 m) ∧ pops = true) ∧ n = 4 ∧ img = 0xFFF8000000000000 ∨
          i = .fstp (.m80 m) ∧ pops = true ∧ n = 5 ∧ img = indefinite.toNat)) →
      Completes i s fun t =>
        if s.npx.masks .i then
          t.imageAt (s.operandAddr m) n = img ∧ (if pops then Popped s.npx t.npx else SameStack s.npx t.npx) ∧
          StatusBits s t 1 ∧ Numeric s t i (some m) (s.operandLocs m n) 0x3801
        else SameStack s.npx t.npx ∧ StatusBits s t 1 ∧ Numeric s t i (some m) [] 0x0001

/-- FST and FSTP of a stack register copy ST, FXCH exchanges, the alias encodings with them; FABS and FCHS change the sign
alone (R806, R807, R808, R838, R839, R885). An Empty register they read is I: masked, real indefinite takes its place, unmasked
nothing changes (R761, R762). The pointers are log 27; that NaNs and infinities move without exception is D52 (log 41), that C3
to C0 stay D39 (log 24). -/
def Obligations.RegisterStackMoves : Prop :=
  (∀ s : State, s.npxReady = true → s.npx.isEmpty 0 = false →
    (∀ (i : Instr) (k : BitVec 3), i = .fst (.st k) →
      Completes i s fun t => Replaced s.npx t.npx k (s.npx.st 0) ∧ Numeric s t i none [] 0) ∧
    (∀ (i : Instr) (k : BitVec 3), i = .fstp (.st k) ∨ i = .fstpAlias1 k ∨ i = .fstpAlias8 k ∨ i = .fstpAlias9 k →
      Completes i s fun t =>
        (∃ u : Npx, Replaced s.npx u k (s.npx.st 0) ∧ Popped u t.npx) ∧ Numeric s t i none [] 0x3800) ∧
    (∀ (i : Instr) (k : BitVec 3), s.npx.isEmpty k = false → i = .fxch k ∨ i = .fxchAlias4 k ∨ i = .fxchAlias7 k →
      Completes i s fun t =>
        (∃ u : Npx, Replaced s.npx u 0 (s.npx.st k) ∧ Replaced u t.npx k (s.npx.st 0)) ∧ Numeric s t i none [] 0) ∧
    (Completes .fabs s fun t => Replaced s.npx t.npx 0 ((s.npx.st 0).setWidth 79 |>.setWidth 80) ∧ Numeric s t .fabs none [] 0) ∧
    Completes .fchs s fun t =>
      (∃ v : Temp, Replaced s.npx t.npx 0 v ∧ v.setWidth 79 = (s.npx.st 0).setWidth 79 ∧ v.msb = !(s.npx.st 0).msb) ∧
      Numeric s t .fchs none [] 0) ∧
  ∀ s : State, s.npxReady = true →
    let bad (i : Instr) (masked : Npx → Prop) : Prop :=
      Completes i s fun t =>
        (if s.npx.masks .i then masked t.npx else SameStack s.npx t.npx) ∧ StatusBits s t 1 ∧ Numeric s t i none [] 0x3801
    (s.npx.isEmpty 0 = true →
      (∀ k : BitVec 3, bad (.fst (.st k)) fun n => Replaced s.npx n k indefinite) ∧
      (∀ (i : Instr) (k : BitVec 3), i = .fstp (.st k) ∨ i = .fstpAlias1 k ∨ i = .fstpAlias8 k ∨ i = .fstpAlias9 k →
        bad i fun n => ∃ u : Npx, Replaced s.npx u k indefinite ∧ Popped u n) ∧
      ∀ i : Instr, i = .fabs ∨ i = .fchs → bad i fun n => Replaced s.npx n 0 indefinite) ∧
    ∀ (i : Instr) (k : BitVec 3), i = .fxch k ∨ i = .fxchAlias4 k ∨ i = .fxchAlias7 k →
      s.npx.isEmpty 0 = true ∨ s.npx.isEmpty k = true →
      bad i fun n => ∃ u : Npx,
        Replaced s.npx u 0 (if s.npx.isEmpty k then indefinite else s.npx.st k) ∧
        Replaced u n k (if s.npx.isEmpty 0 then indefinite else s.npx.st 0)

/-- The four operations, in all their forms, on two numbers that are normal or zero, but for a division by zero: the exact result
rounded by RC to the precision PC, when it is in the range of a normal number, or a zero; P if it was inexact, no other flag (R721,
R722, R752, R766, R803, R814). Infinities that do not make the operation invalid give an infinity, or as divisor a zero (R757). The
exact sum and product are so on significands and exponents, and the quotient rounds as the true quotient does. An Empty operand, a
NaN and the invalid combinations of infinities and zeros are I, a normal number by zero is Z, a denormal D, a result outside the
range O or U; masked, each gives its masked response, unmasked, I, D and Z leave the registers alone and O and U write the
result with its exponent modulo 2^15 (R750, R756, R758, R761 to R765, R768). What PC controls is log 25, the pointers log 27;
that C3 to C0 stay is D39 (log 24), the NaN of equal significands D45 and the place of the overflow test D46 (log 41), the
unmasked O and U D47 (log 31). -/
def Obligations.BasicArithmeticRoundsExactResult : Prop :=
  (∀ (i : Instr) (c : ArithCase) (s : State), s.arithCase i = some c → s.npxReady = true →
    s.npx.isEmpty c.dst = false → s.sourceReady c.src = true →
    normalOrZero (s.npx.st c.dst) = true → normalOrZero (s.sourceValue c.src) = true →
    let d := valueOf (s.npx.st c.dst)
    let x := valueOf (s.sourceValue c.src)
    (c.op = .div → (if c.reversed then d else x).mant ≠ 0) →
    let rc := roundingOf s.npx.control
    let v := if c.reversed then c.op.exact x d (rc == .down) else c.op.exact d x (rc == .down)
    let r := v.rounded rc (precisionOf s.npx.control) 0
    (v.mant ≠ 0 → -16382 ≤ v.top ∧ r.top ≤ 16383) →
    Completes i s fun t =>
      (∃ u : Npx,
        Replaced s.npx u c.dst (if v.mant = 0 then zeroOf v.neg else mkTemp v.neg (r.top + 16383).toNat r.sig) ∧
        (if c.pops then Popped u t.npx else SameStack u t.npx)) ∧
      t.npx.status.getLsbD 5 = (s.npx.status.getLsbD 5 || decide (v.mant ≠ 0) && r.inexact) ∧
      Numeric s t i c.src.operand [] 0x3820) ∧
  (∀ (a b : Value) (down : Bool),
    let r := a.add b down
    let g := min r.exp (min a.exp b.exp)
    (r.over g = a.over g + b.over g ∧ (r.mant = 0 → r.neg = if a.neg = b.neg then a.neg else down)) ∧
    (a.mul b).mant = a.mant * b.mant ∧ (a.mul b).exp = a.exp + b.exp ∧ (a.mul b).neg = (a.neg != b.neg)) ∧
  (∀ (a b : Value) (rc : Rounding) (p : Nat), a.mant ≠ 0 → b.mant ≠ 0 → a.mant < 2 ^ 64 → b.mant < 2 ^ 64 →
    p = 24 ∨ p = 53 ∨ p = 64 →
    let neg := a.neg != b.neg
    let r := (a.div b).rounded rc p 0
    let g := min a.exp (r.top - 63 + b.exp)
    let x := a.mant * 2 ^ (a.exp - g).toNat
    let y := r.sig * b.mant * 2 ^ (r.top - 63 + b.exp - g).toNat
    let u := 2 ^ (64 - p) * b.mant * 2 ^ (r.top - 63 + b.exp - g).toNat
    (a.div b).neg = neg ∧ 2 ^ 63 ≤ r.sig ∧ r.sig < 2 ^ 64 ∧ r.sig % 2 ^ (64 - p) = 0 ∧ y < x + u ∧ x < y + u ∧
    r.inexact = decide (x ≠ y) ∧
    (match rc with
      | .nearest => 2 * y ≤ 2 * x + u ∧ 2 * x ≤ 2 * y + u ∧
          (2 * y = 2 * x + u ∨ 2 * x = 2 * y + u → r.sig / 2 ^ (64 - p) % 2 = 0)
      | .chop => y ≤ x
      | .down => if neg then x ≤ y else y ≤ x
      | .up => if neg then y ≤ x else x ≤ y)) ∧
  ∀ (i : Instr) (c : ArithCase) (s : State), s.arithCase i = some c → s.npxReady = true →
    let d := s.npx.st c.dst
    let x := s.sourceValue c.src
    let a := if c.reversed then x else d
    let b := if c.reversed then d else x
    let rc := roundingOf s.npx.control
    let affine := s.npx.control.getLsbD 12
    let clash : Prop :=
      match c.op with
      | .add => classOf a = .infinity ∧ classOf b = .infinity ∧ (affine = false ∨ a.msb ≠ b.msb)
      | .sub => classOf a = .infinity ∧ classOf b = .infinity ∧ (affine = false ∨ a.msb = b.msb)
      | .mul => classOf a = .infinity ∧ classOf b = .zero ∨ classOf a = .zero ∧ classOf b = .infinity
      | .div => classOf a = .infinity ∧ classOf b = .infinity ∨ classOf a = .zero ∧ classOf b = .zero
    let result (t : State) (v : Temp) (bits : Word) : Prop :=
      (∃ u : Npx, Replaced s.npx u c.dst v ∧ (if c.pops then Popped u t.npx else SameStack u t.npx)) ∧
      StatusBits s t bits ∧ Numeric s t i c.src.operand [] 0x383F
    let stopped (t : State) (bits : Word) : Prop :=
      SameStack s.npx t.npx ∧ StatusBits s t bits ∧ Numeric s t i c.src.operand [] 0x003F
    let invalid (v : Temp) : Prop :=
      Completes i s fun t => if s.npx.masks .i then result t v 1 else stopped t 1
    ((∀ (m : Mem) (n : Nat) (v : Temp), c.src = .mem m n v → s.operandIn m n = true) →
      s.npx.isEmpty c.dst = true ∨ (∃ k : BitVec 3, c.src = .reg k ∧ s.npx.isEmpty k = true) → invalid indefinite) ∧
    (s.npx.isEmpty c.dst = false → s.sourceReady c.src = true →
      (plain d = true → plain x = true → classOf d = .nan ∨ classOf x = .nan →
        invalid (if classOf d = .nan ∧ (classOf x = .nan → sigOf x ≤ sigOf d) then d else x)) ∧
      (clash → invalid indefinite) ∧
      (plain d = true → plain x = true → classOf d ≠ .nan → classOf x ≠ .nan → ¬clash →
        classOf a = .infinity ∨ classOf b = .infinity →
        Completes i s fun t =>
          result t
            (match c.op with
              | .add => if classOf a = .infinity then a else b
              | .sub => if classOf a = .infinity then a else infinityOf (!b.msb)
              | .mul => infinityOf (a.msb != b.msb)
              | .div => if classOf a = .infinity then infinityOf (a.msb != b.msb) else zeroOf (a.msb != b.msb)) 0) ∧
      (c.op = .div → classOf a = .normal → classOf b = .zero →
        Completes i s fun t =>
          if s.npx.masks .z then result t (infinityOf (a.msb != b.msb)) 4 else stopped t 4) ∧
      (classOf d = .denormal → classOf x = .normal → ¬(c.op = .div ∧ c.reversed = true) → s.npx.masks .d = false →
        Completes i s fun t => stopped t 2) ∧
      (classOf d = .normal → classOf x = .normal →
        let v := c.op.exact (valueOf a) (valueOf b) (rc == .down)
        let r := v.rounded rc (precisionOf s.npx.control) 0
        let wrapped := mkTemp v.neg ((r.top + 16383) % 32768).toNat r.sig
        v.mant ≠ 0 →
        (-16382 ≤ v.top → 16383 < r.top → Completes i s fun t =>
          if s.npx.masks .o then
            result t (if overflowIsInfinite rc v.neg then infinityOf v.neg else mkTemp v.neg 0x7FFE (2 ^ 64 - 1)) 0x28
          else result t wrapped 8) ∧
        (v.top < -16382 → Completes i s fun t =>
          if s.npx.masks .u then
            ∃ (q : Nat) (inexact : Bool), RoundsTo rc v q (-16445) inexact ∧
              result t (mkTemp v.neg 0 q) (0x10 ||| if inexact then 0x20 else 0)
          else result t wrapped 0x10)))

/-- Rounding to 24, 53 or 64 bits: the result has that many significant bits and lies less than one unit of the last place from
the value; nearest is within half a unit, ties to even; up, down and chop lie on their side; inexact tells whether it differs
(R721, R722). -/
def Obligations.RoundingIsCorrect : Prop :=
  ∀ (v : Value) (rc : Rounding) (p : Nat), v.mant ≠ 0 → p = 24 ∨ p = 53 ∨ p = 64 →
    let r := v.rounded rc p 0
    let g := min (r.top - 63) v.exp
    let x := v.mant * 2 ^ (v.exp - g).toNat
    let y := r.sig * 2 ^ (r.top - 63 - g).toNat
    let u := 2 ^ (64 - p) * 2 ^ (r.top - 63 - g).toNat
    2 ^ 63 ≤ r.sig ∧ r.sig < 2 ^ 64 ∧ r.sig % 2 ^ (64 - p) = 0 ∧ y < x + u ∧ x < y + u ∧ r.inexact = decide (x ≠ y) ∧
    (match rc with
      | .nearest => 2 * y ≤ 2 * x + u ∧ 2 * x ≤ 2 * y + u ∧
          (2 * y = 2 * x + u ∨ 2 * x = 2 * y + u → r.sig / 2 ^ (64 - p) % 2 = 0)
      | .chop => y ≤ x
      | .down => if v.neg then x ≤ y else y ≤ x
      | .up => if v.neg then y ≤ x else x ≤ y)

/-- The comparisons of ST with a number that is normal or zero: C3, C2 and C0 tell greater, less and equal, C1 stays, and the
popping forms pop (R804, R840 to R845, R885). An Empty register, a NaN and, in projective closure, one infinity are not
comparable: C3, C2 and C0 are 1, with I, and unmasked nothing is popped; else an infinity lies beyond every number, and in
projective closure two are equal (R757, R758, R762, R804). FXAM tells the class of ST in C3, C2 and C0 and its sign in C1, and
changes nothing else (R846). The pointers are log 27; that C1 stays is D39 (log 24), C3, C2 and C0 after an unmasked I D53, the two
projective infinities C88 (log 40). -/
def Obligations.ComparisonsSetConditionCodes : Prop :=
  (∀ (i : Instr) (src : NumSource) (k : Nat) (s : State), s.compareCase i = some (src, k) → s.npxReady = true →
    s.npx.isEmpty 0 = false → s.sourceReady src = true →
    normalOrZero (s.npx.st 0) = true → normalOrZero (s.sourceValue src) = true →
    let a := valueOf (s.npx.st 0)
    let b := valueOf (s.sourceValue src)
    Completes i s fun t =>
      (t.npx.status.getLsbD 14, t.npx.status.getLsbD 10, t.npx.status.getLsbD 8) =
        (if a.lt b then (false, false, true) else if b.lt a then (false, false, false) else (true, false, false)) ∧
      (match k with
        | 0 => SameStack s.npx t.npx
        | 1 => Popped s.npx t.npx
        | _ => ∃ u : Npx, Popped s.npx u ∧ Popped u t.npx) ∧
      Numeric s t i src.operand [] 0x7D00) ∧
  (∀ (i : Instr) (src : NumSource) (k : Nat) (s : State), s.compareCase i = some (src, k) → s.npxReady = true →
    (∀ (m : Mem) (n : Nat) (v : Temp), src = .mem m n v → s.operandIn m n = true ∧ plain v = true) →
    let a := s.npx.st 0
    let b := s.sourceValue src
    let affine := s.npx.control.getLsbD 12
    let empty : Prop := s.npx.isEmpty 0 = true ∨ ∃ j : BitVec 3, src = .reg j ∧ s.npx.isEmpty j = true
    let number : Prop := ¬empty ∧ plain a = true ∧ plain b = true
    let pops (t : State) : Prop :=
      match k with
      | 0 => SameStack s.npx t.npx
      | 1 => Popped s.npx t.npx
      | _ => ∃ u : Npx, Popped s.npx u ∧ Popped u t.npx
    let codes (t : State) : Bool × Bool × Bool :=
      (t.npx.status.getLsbD 14, t.npx.status.getLsbD 10, t.npx.status.getLsbD 8)
    let rank (t : Temp) : Int := if classOf t = .infinity then (if t.msb then -1 else 1) else 0
    let unordered : Prop := classOf a = .nan ∨ classOf b = .nan ∨
      affine = false ∧ (classOf a = .infinity ∧ classOf b ≠ .infinity ∨ classOf a ≠ .infinity ∧ classOf b = .infinity)
    (empty ∨ number ∧ unordered → Completes i s fun t =>
      codes t = (true, true, true) ∧ t.npx.status.getLsbD 0 = true ∧ (if s.npx.masks .i then pops t else SameStack s.npx t.npx) ∧
      Numeric s t i src.operand [] 0x7D01) ∧
    (number → ¬unordered → classOf a = .infinity ∨ classOf b = .infinity → Completes i s fun t =>
      codes t = (if affine = false ∨ rank a = rank b then (true, false, false) else (false, false, decide (rank a < rank b))) ∧
      pops t ∧ Numeric s t i src.operand [] 0x7D00)) ∧
  ∀ s : State, s.npxReady = true →
    Completes .fxam s fun t =>
      (s.npx.isEmpty 0 = true → t.npx.status.getLsbD 14 = true ∧ t.npx.status.getLsbD 8 = true) ∧
      (s.npx.isEmpty 0 = false →
        (t.npx.status.getLsbD 14, t.npx.status.getLsbD 10, t.npx.status.getLsbD 8) =
          (match classOf (s.npx.st 0) with
            | .unnormal => (false, false, false)
            | .nan => (false, false, true)
            | .normal => (false, true, false)
            | .infinity => (false, true, true)
            | .zero => (true, false, false)
            | .denormal => (true, true, false)) ∧
        t.npx.status.getLsbD 9 = (s.npx.st 0).msb) ∧
      SameStack s.npx t.npx ∧ Numeric s t .fxam none [] 0x4700

/-- FSQRT, FRNDINT, FSCALE, FPREM and FXTRACT of normal numbers (R833 to R837): the root is within one unit of the last place
on the side that RC chooses, within half a unit under nearest, ties to even; the integer is rounded by RC; the scaled number, the
remainder of a complete reduction and the parts are exact. What PC controls is log 25, the pointers log 27; that C3 to C0 stay but
for FPREM is D39 (log 24), the sign of a zero of FRNDINT D51 (log 41), the threshold of 64 for a complete FPREM R835's own reading
(log 37). FPREM of an Empty register, a NaN, an infinite dividend, or a divisor that is zero, denormal or unnormal is I: masked, ST
becomes the NaN with the larger significand, where there is none real indefinite, and C2 is cleared; unmasked, nothing changes (R758,
R761, R762, R835; R835 gives real indefinite for a NaN too, so there it is one of the two: log 72; of equal significands ST's: D45, log 41). -/
def Obligations.UnaryNumericOperations : Prop :=
  (∀ s : State, s.npxReady = true → s.npx.isEmpty 0 = false → classOf (s.npx.st 0) = .normal →
    let x := valueOf (s.npx.st 0)
    let rc := roundingOf s.npx.control
    let p := precisionOf s.npx.control
    (x.neg = false → Completes .fsqrt s fun t =>
      ∃ v : Temp, Replaced s.npx t.npx 0 v ∧ Numeric s t .fsqrt none [] 0x0020 ∧
        (let r := valueOf v; let k := (x.exp - 2 * r.exp).toNat; let u := 2 ^ (64 - p)
          r.neg = false ∧ 2 * r.exp ≤ x.exp ∧ 2 ^ 63 ≤ r.mant ∧ r.mant % u = 0 ∧
          (r.mant - u) ^ 2 < x.mant * 2 ^ k ∧ x.mant * 2 ^ k < (r.mant + u) ^ 2 ∧
          (rc = .nearest → (2 * r.mant - u) ^ 2 ≤ 4 * (x.mant * 2 ^ k) ∧ 4 * (x.mant * 2 ^ k) ≤ (2 * r.mant + u) ^ 2 ∧
            (4 * (x.mant * 2 ^ k) = (2 * r.mant - u) ^ 2 ∨ 4 * (x.mant * 2 ^ k) = (2 * r.mant + u) ^ 2 → r.mant / u % 2 = 0)) ∧
          (rc = .chop ∨ rc = .down → r.mant ^ 2 ≤ x.mant * 2 ^ k) ∧ (rc = .up → x.mant * 2 ^ k ≤ r.mant ^ 2) ∧
          t.npx.status.getLsbD 5 = (s.npx.status.getLsbD 5 || decide (r.mant ^ 2 ≠ x.mant * 2 ^ k)))) ∧
    (Completes .frndint s fun t =>
        ∃ (v : Temp) (q : Nat) (inexact : Bool), RoundsTo rc x q 0 inexact ∧ Replaced s.npx t.npx 0 v ∧
          (valueOf v).same { neg := x.neg, mant := q, exp := 0 } ∧
          t.npx.status.getLsbD 5 = (s.npx.status.getLsbD 5 || inexact) ∧ Numeric s t .frndint none [] 0x0020) ∧
    (∀ n : Int, s.npx.isEmpty 1 = false → normalOrZero (s.npx.st 1) = true → (valueOf (s.npx.st 1)).isInt n →
      -32768 ≤ n → n < 32768 → 1 ≤ expOf (s.npx.st 0) + n → expOf (s.npx.st 0) + n ≤ 0x7FFE →
      Completes .fscale s fun t =>
        Replaced s.npx t.npx 0 (mkTemp x.neg (expOf (s.npx.st 0) + n).toNat (sigOf (s.npx.st 0))) ∧
        Numeric s t .fscale none [] 0) ∧
    (s.npx.isEmpty 1 = false → classOf (s.npx.st 1) = .normal →
      let y := valueOf (s.npx.st 1)
      let (a, b, g) := x.aligned y
      let r : Value := { neg := x.neg, mant := a % b, exp := g }
      x.top - y.top < 64 → r.mant = 0 ∨ -16382 ≤ r.top →
      Completes .fprem s fun t =>
        (∃ v : Temp, Replaced s.npx t.npx 0 v ∧ (valueOf v).same r) ∧
        t.npx.status.getLsbD 10 = false ∧ t.npx.status.getLsbD 9 = (a / b).testBit 0 ∧
        (2 ≤ a / b → t.npx.status.getLsbD 14 = (a / b).testBit 1) ∧
        (4 ≤ a / b → t.npx.status.getLsbD 8 = (a / b).testBit 2) ∧ Numeric s t .fprem none [] 0x4700) ∧
    (s.npx.isEmpty 7 = true → Completes .fxtract s fun t =>
      (∃ (e : Temp) (u : Npx), Replaced s.npx u 0 e ∧ (valueOf e).isInt (expOf (s.npx.st 0) - 16383) ∧
        Pushed u t.npx (mkTemp x.neg 0x3FFF (sigOf (s.npx.st 0)))) ∧
      Numeric s t .fxtract none [] 0x3800)) ∧
  ∀ s : State, s.npxReady = true →
    let x := s.npx.st 0
    let y := s.npx.st 1
    let invalid (result : Temp → Prop) : Prop :=
      Completes .fprem s fun t =>
        if s.npx.masks .i then
          (∃ v : Temp, result v ∧ Replaced s.npx t.npx 0 v) ∧ t.npx.status.getLsbD 0 = true ∧ t.npx.status.getLsbD 10 = false ∧
          Numeric s t .fprem none [] 0x0401
        else SameStack s.npx t.npx ∧ StatusBits s t 1 ∧ Numeric s t .fprem none [] 0x0001
    (s.npx.isEmpty 0 = true ∨ s.npx.isEmpty 1 = true → invalid (· = indefinite)) ∧
    (s.npx.isEmpty 0 = false → s.npx.isEmpty 1 = false → classOf x ≠ .denormal →
      (classOf x = .nan ∨ classOf y = .nan → invalid fun v =>
        v = indefinite ∨ v = if classOf x = .nan ∧ (classOf y = .nan → sigOf y ≤ sigOf x) then x else y) ∧
      (classOf x ≠ .nan → classOf y ≠ .nan →
        classOf x = .infinity ∨ classOf y = .zero ∨ classOf y = .denormal ∨ classOf y = .unnormal →
          invalid (· = indefinite)))

/-- The transcendental instructions complete on every operand that is not Empty, and inside the domains of R849 to R853 give
the function of D56, but where FPATAN or F2XM1 underflows with U unmasked; outside them the result is open (R848). The functions
are parameters (log 13), the edges of the domains and the underflow log 39, F2XM1 of a zero, which R752 and R848 differ on, log 73, the pointers log 27; that C3 to C0 stay is D39 (log
24). -/
def Obligations.TranscendentalFunctions : Prop :=
  ∀ s : State, s.npxReady = true → s.npx.isEmpty 0 = false →
    let x := s.npx.st 0
    let y := s.npx.st 1
    let underflows (z : Temp) : Bool := classOf z == .denormal || classOf z == .zero
    (s.npx.isEmpty 7 = true → Completes .fptan s fun t =>
      (∃ (a b : Temp) (u : Npx), Replaced s.npx u 0 a ∧ Pushed u t.npx b ∧
        (normalOrZero x = true → x.msb = false → x.toNat ≤ 0x3FFEC90FDAA22168C235 → (a, b) = Config.fptan x)) ∧
      Numeric s t .fptan none [] 0x3820) ∧
    (Completes .f2xm1 s fun t =>
      (∃ a : Temp, Replaced s.npx t.npx 0 a ∧
        (classOf x = .normal → x.msb = false → x.toNat ≤ 0x3FFE8000000000000000 →
          (underflows (Config.f2xm1 x) = true → s.npx.masks .u = true) → a = Config.f2xm1 x) ∧
        (classOf x = .zero → (a = x ∨ a = Config.f2xm1 x) ∧ t.npx.status.getLsbD 4 = s.npx.status.getLsbD 4)) ∧
      Numeric s t .f2xm1 none [] 0x0030) ∧
    (s.npx.isEmpty 1 = false →
      ∀ (i : Instr) (inside : Prop) (z : Temp),
        (i = .fpatan ∧ z = Config.fpatan y x ∧
          inside = (normalOrZero x = true ∧ classOf y = .normal ∧ y.msb = false ∧ (valueOf y).lt (valueOf x) = true ∧
            (underflows (Config.fpatan y x) = true → s.npx.masks .u = true))) ∨
        (i = .fyl2x ∧ z = Config.fyl2x y x ∧ inside = (normalOrZero y = true ∧ classOf x = .normal ∧ x.msb = false)) ∨
        (i = .fyl2xp1 ∧ z = Config.fyl2xp1 y x ∧
          inside = (normalOrZero y = true ∧ normalOrZero x = true ∧ (x.setWidth 79).toNat ≤ 0x3FFD95F619980C4336F7)) →
        Completes i s fun t =>
          (∃ (a : Temp) (u : Npx), Replaced s.npx u 1 a ∧ Popped u t.npx ∧ (inside → a = z)) ∧
          Numeric s t i none [] 0x3830)

/-- FINCSTP and FDECSTP turn TOP and change no tag or register; FFREE empties a register and keeps its contents, and its alias
pops too; FNOP does nothing, even when ST is Empty (R876 to R879, R885). The pointers are log 27; that C3 to C0 stay is D39
(log 24). -/
def Obligations.StackControlInstructions : Prop :=
  ∀ s : State, s.npxReady = true →
    (Completes .fnop s fun t => SameStack s.npx t.npx ∧ Numeric s t .fnop none [] 0) ∧
    (∀ (i : Instr) (d : BitVec 3), (i = .fincstp ∧ d = 1) ∨ (i = .fdecstp ∧ d = -1) → Completes i s fun t =>
      t.npx.top = s.npx.top + d ∧ t.npx.regs = s.npx.regs ∧ t.npx.empty = s.npx.empty ∧ Numeric s t i none [] 0x3800) ∧
    ∀ k : BitVec 3,
      (Completes (.ffree k) s fun t =>
        t.npx.isEmpty k = true ∧ (∀ j : BitVec 3, j ≠ k → t.npx.isEmpty j = s.npx.isEmpty j) ∧ t.npx.regs = s.npx.regs ∧
        Numeric s t (.ffree k) none [] 0) ∧
      Completes (.ffreePopAlias6 k) s fun t =>
        t.npx.top = s.npx.top + 1 ∧ t.npx.isEmpty 7 = true ∧ t.npx.isEmpty (k - 1) = true ∧
        (∀ j : BitVec 3, j ≠ 7 → j ≠ k - 1 → t.npx.isEmpty j = s.npx.isEmpty (j + 1)) ∧ t.npx.regs = s.npx.regs ∧
        Numeric s t (.ffreePopAlias6 k) none [] 0x3800

/-- The control instructions. Those of the no-wait group (D27) run whether or not the 80287 is busy or reports an exception:
FINIT, FSETPM, FCLEX, FENI and FDISI, which do nothing, FSTCW and FSTSW. FLDCW, and the reserved encodings, which do nothing
(U21), run when it is ready. The CPU's state stays but for AX or the word stored (R865 to R871, R881, R886). The control word
after FINIT is log 19, the reserved encodings log 23, the pointers log 27; that FINIT leaves C3 to C0 is D39, that reserved control
bits are stored and status bit 6 reads zero D38 (log 24). -/
def Obligations.ProcessorControl : Prop :=
  (∀ s : State, s.npxReachable = true →
    (Completes .finit s fun t =>
      t.npx.control = 0x03FF ∧ t.npx.status = s.npx.status &&& 0x4700 ∧ t.npx.empty = 0xFF ∧ t.npx.regs = s.npx.regs ∧
      t.npx.pm = s.npx.pm ∧ t.npx.busy = false ∧ SamePointers s t ∧ SameCpu s t []) ∧
    (Completes .fsetpm s fun t => t.npx = { s.npx with pm := true } ∧ SameCpu s t []) ∧
    (Completes .fclex s fun t => t.npx = { s.npx with status := s.npx.status &&& 0xFFC0 } ∧ SameCpu s t []) ∧
    (∀ i : Instr, i = .feni ∨ i = .fdisi → Completes i s fun t => t.npx = s.npx ∧ SameCpu s t []) ∧
    (∀ (i : Instr) (m : Mem) (w : Word), s.plainMemory = true → s.operandOut m 1 = true →
      (i = .fstcw m ∧ w = s.npx.control) ∨ (i = .fstsw m ∧ w = s.npx.statusWord) →
      Completes i s fun t =>
        t.get (.mem16 (s.operandAddr m 0)) = w.toNat ∧ t.npx = s.npx ∧ SameCpu s t [.mem16 (s.operandAddr m 0)]) ∧
    Completes .fstswAx s fun t => t.ax = s.npx.statusWord ∧ t.npx = s.npx ∧ SameCpu s t [.reg16 .ax]) ∧
  (∀ s : State, s.npxReady = true →
    (∀ m : Mem, s.operandIn m 1 = true → Completes (.fldcw m) s fun t =>
      t.npx = { s.npx with control := s.readWord (s.operandAddr m 0) } ∧ SameCpu s t []) ∧
    ∀ (ttt n : BitVec 3) (e : Rm (BitVec 3)), escAssigned ttt n e = false → s.readable e 2 = true →
      Completes (.esc ttt n e) s fun t => t.npx = s.npx ∧ SameCpu s t [])

/-- FSTENV stores control, status and tag words and the pointers in the format of the mode, then masks all exceptions; FSAVE
stores the registers in stack order after them, then initializes, both with an exception pending or not; FLDENV and FRSTOR
load what such an image holds (R728 to R730, R872 to R875). The layouts are log 19; that FSTENV only masks is D49 (log 41), that a
loaded tag word sets Empty alone and stored tags are computed D42 (log 26), which status bits are held, and C3 to C0 after FSAVE,
D38 and D39 (log 24). -/
def Obligations.EnvironmentAndStateImages : Prop :=
  ∀ (m : Mem) (s : State), s.npxReachable = true → s.npx.busy = false →
    let a := s.operandAddr m
    let stored (t : State) : Prop :=
      t.readWord (a 0) = s.npx.control ∧ t.readWord (a 1) = s.npx.statusWord ∧ t.readWord (a 2) = s.npx.tagWord ∧
      (s.npx.form = .both → s.npx.pm = true →
        t.readWord (a 3) = s.npx.ip.off ∧ t.readWord (a 4) = s.npx.ip.sel ∧ t.readWord (a 5) = s.npx.op.off ∧
        t.readWord (a 6) = s.npx.op.sel) ∧
      (s.npx.form = .both → s.npx.pm = false →
        t.readWord (a 3) = s.npx.ip.real.setWidth 16 ∧
        t.readWord (a 4) = (s.npx.ip.real >>> 16).setWidth 16 <<< 12 ||| s.npx.opcode.setWidth 16 ∧
        t.readWord (a 5) = s.npx.op.real.setWidth 16 ∧ t.readWord (a 6) = (s.npx.op.real >>> 16).setWidth 16 <<< 12)
    let loaded (t : State) : Prop :=
      t.npx.control = s.readWord (a 0) ∧ t.npx.status = s.readWord (a 1) &&& 0x7F3F ∧
      (∀ k : Fin 8, t.npx.empty.getLsbD k.val =
        ((s.readWord (a 2)).getLsbD (2 * k.val) && (s.readWord (a 2)).getLsbD (2 * k.val + 1))) ∧
      (s.npx.pm = true →
        t.npx.ip.off = s.readWord (a 3) ∧ t.npx.ip.sel = s.readWord (a 4) ∧ t.npx.op.off = s.readWord (a 5) ∧
        t.npx.op.sel = s.readWord (a 6)) ∧
      (s.npx.pm = false →
        t.npx.ip.real = (s.readWord (a 4)).extractLsb' 12 4 ++ s.readWord (a 3) ∧
        t.npx.op.real = (s.readWord (a 6)).extractLsb' 12 4 ++ s.readWord (a 5) ∧
        t.npx.opcode = (s.readWord (a 4)).extractLsb' 0 11) ∧
      SameMode s t ∧ SameCpu s t []
    (s.plainMemory = true → s.operandOut m 7 = true → Completes (.fstenv m) s fun t =>
      stored t ∧ t.npx = { s.npx with control := s.npx.control ||| 0x003F } ∧ SameCpu s t (s.operandLocs m 7)) ∧
    (s.plainMemory = true → s.operandOut m 47 = true → Completes (.fsave m) s fun t =>
      stored t ∧
      (∀ k : BitVec 3, (s.npx.st k).toNat =
        t.imageAt (fun j => a (7 + 5 * k.toNat + j)) 5) ∧
      t.npx.control = 0x03FF ∧ t.npx.status = s.npx.status &&& 0x4700 ∧ t.npx.empty = 0xFF ∧ t.npx.regs = s.npx.regs ∧
      SameMode s t ∧ SamePointers s t ∧ SameCpu s t (s.operandLocs m 47)) ∧
    (s.npx.es = false → s.operandIn m 7 = true → Completes (.fldenv m) s fun t => loaded t ∧ t.npx.regs = s.npx.regs) ∧
    (s.npx.es = false → s.operandIn m 47 = true → Completes (.frstor m) s fun t =>
      loaded t ∧ ∀ k : BitVec 3, (t.npx.st k).toNat =
        s.imageAt (fun j => a (7 + 5 * k.toNat + j)) 5)
end

