-- ==== Sys2Proof/Laws/State.lean ====
section
/-! SUPPORT. What each update of the state does to each field: one lemma per field per update. -/

namespace Sys2Proof.Machine

/-! ## `State.setReg16` -/

@[simp] theorem State.setReg16_ip (s : State) (r : Reg16) (v : Word) : (s.setReg16 r v).ip = s.ip := by cases r <;> rfl
@[simp] theorem State.setReg16_ipCarry (s : State) (r : Reg16) (v : Word) : (s.setReg16 r v).ipCarry = s.ipCarry := by cases r <;> rfl
@[simp] theorem State.setReg16_flags (s : State) (r : Reg16) (v : Word) : (s.setReg16 r v).flags = s.flags := by cases r <;> rfl
@[simp] theorem State.setReg16_msw (s : State) (r : Reg16) (v : Word) : (s.setReg16 r v).msw = s.msw := by cases r <;> rfl
@[simp] theorem State.setReg16_es (s : State) (r : Reg16) (v : Word) : (s.setReg16 r v).es = s.es := by cases r <;> rfl
@[simp] theorem State.setReg16_cs (s : State) (r : Reg16) (v : Word) : (s.setReg16 r v).cs = s.cs := by cases r <;> rfl
@[simp] theorem State.setReg16_ss (s : State) (r : Reg16) (v : Word) : (s.setReg16 r v).ss = s.ss := by cases r <;> rfl
@[simp] theorem State.setReg16_ds (s : State) (r : Reg16) (v : Word) : (s.setReg16 r v).ds = s.ds := by cases r <;> rfl
@[simp] theorem State.setReg16_gdtr (s : State) (r : Reg16) (v : Word) : (s.setReg16 r v).gdtr = s.gdtr := by cases r <;> rfl
@[simp] theorem State.setReg16_idtr (s : State) (r : Reg16) (v : Word) : (s.setReg16 r v).idtr = s.idtr := by cases r <;> rfl
@[simp] theorem State.setReg16_ldtr (s : State) (r : Reg16) (v : Word) : (s.setReg16 r v).ldtr = s.ldtr := by cases r <;> rfl
@[simp] theorem State.setReg16_tr (s : State) (r : Reg16) (v : Word) : (s.setReg16 r v).tr = s.tr := by cases r <;> rfl
@[simp] theorem State.setReg16_npx (s : State) (r : Reg16) (v : Word) : (s.setReg16 r v).npx = s.npx := by cases r <;> rfl
@[simp] theorem State.setReg16_npxPresent (s : State) (r : Reg16) (v : Word) : (s.setReg16 r v).npxPresent = s.npxPresent := by cases r <;> rfl
@[simp] theorem State.setReg16_mem (s : State) (r : Reg16) (v : Word) : (s.setReg16 r v).mem = s.mem := by cases r <;> rfl
@[simp] theorem State.setReg16_platform (s : State) (r : Reg16) (v : Word) : (s.setReg16 r v).platform = s.platform := by cases r <;> rfl
@[simp] theorem State.setReg16_run (s : State) (r : Reg16) (v : Word) : (s.setReg16 r v).run = s.run := by cases r <;> rfl
@[simp] theorem State.setReg16_inhibitAll (s : State) (r : Reg16) (v : Word) : (s.setReg16 r v).inhibitAll = s.inhibitAll := by cases r <;> rfl
@[simp] theorem State.setReg16_inhibitIntr (s : State) (r : Reg16) (v : Word) : (s.setReg16 r v).inhibitIntr = s.inhibitIntr := by cases r <;> rfl
@[simp] theorem State.setReg16_nmiPending (s : State) (r : Reg16) (v : Word) : (s.setReg16 r v).nmiPending = s.nmiPending := by cases r <;> rfl
@[simp] theorem State.setReg16_nmiInService (s : State) (r : Reg16) (v : Word) : (s.setReg16 r v).nmiInService = s.nmiInService := by cases r <;> rfl
@[simp] theorem State.setReg16_mpPending (s : State) (r : Reg16) (v : Word) : (s.setReg16 r v).mpPending = s.mpPending := by cases r <;> rfl
@[simp] theorem State.setReg16_stepPending (s : State) (r : Reg16) (v : Word) : (s.setReg16 r v).stepPending = s.stepPending := by cases r <;> rfl
@[simp] theorem State.setReg16_tfAtStart (s : State) (r : Reg16) (v : Word) : (s.setReg16 r v).tfAtStart = s.tfAtStart := by cases r <;> rfl
@[simp] theorem State.setReg16_istart (s : State) (r : Reg16) (v : Word) : (s.setReg16 r v).istart = s.istart := by cases r <;> rfl
@[simp] theorem State.setReg16_pfx (s : State) (r : Reg16) (v : Word) : (s.setReg16 r v).pfx = s.pfx := by cases r <;> rfl
@[simp] theorem State.setReg16_held (s : State) (r : Reg16) (v : Word) : (s.setReg16 r v).held = s.held := by cases r <;> rfl
@[simp] theorem State.setReg16_stale (s : State) (r : Reg16) (v : Word) : (s.setReg16 r v).stale = s.stale := by cases r <;> rfl
@[simp] theorem State.setReg16_ioTrace (s : State) (r : Reg16) (v : Word) : (s.setReg16 r v).ioTrace = s.ioTrace := by cases r <;> rfl
@[simp] theorem State.setReg16_inputs (s : State) (r : Reg16) (v : Word) : (s.setReg16 r v).inputs = s.inputs := by cases r <;> rfl
@[simp] theorem State.setReg16_free (s : State) (r : Reg16) (v : Word) : (s.setReg16 r v).free = s.free := by cases r <;> rfl
@[simp] theorem State.setReg16_clock (s : State) (r : Reg16) (v : Word) : (s.setReg16 r v).clock = s.clock := by cases r <;> rfl

/-! ## `State.setReg8` -/

@[simp] theorem State.setReg8_sp (s : State) (r : Reg8) (v : Byte) : (s.setReg8 r v).sp = s.sp := by cases r <;> rfl
@[simp] theorem State.setReg8_bp (s : State) (r : Reg8) (v : Byte) : (s.setReg8 r v).bp = s.bp := by cases r <;> rfl
@[simp] theorem State.setReg8_si (s : State) (r : Reg8) (v : Byte) : (s.setReg8 r v).si = s.si := by cases r <;> rfl
@[simp] theorem State.setReg8_di (s : State) (r : Reg8) (v : Byte) : (s.setReg8 r v).di = s.di := by cases r <;> rfl
@[simp] theorem State.setReg8_ip (s : State) (r : Reg8) (v : Byte) : (s.setReg8 r v).ip = s.ip := by cases r <;> rfl
@[simp] theorem State.setReg8_ipCarry (s : State) (r : Reg8) (v : Byte) : (s.setReg8 r v).ipCarry = s.ipCarry := by cases r <;> rfl
@[simp] theorem State.setReg8_flags (s : State) (r : Reg8) (v : Byte) : (s.setReg8 r v).flags = s.flags := by cases r <;> rfl
@[simp] theorem State.setReg8_msw (s : State) (r : Reg8) (v : Byte) : (s.setReg8 r v).msw = s.msw := by cases r <;> rfl
@[simp] theorem State.setReg8_es (s : State) (r : Reg8) (v : Byte) : (s.setReg8 r v).es = s.es := by cases r <;> rfl
@[simp] theorem State.setReg8_cs (s : State) (r : Reg8) (v : Byte) : (s.setReg8 r v).cs = s.cs := by cases r <;> rfl
@[simp] theorem State.setReg8_ss (s : State) (r : Reg8) (v : Byte) : (s.setReg8 r v).ss = s.ss := by cases r <;> rfl
@[simp] theorem State.setReg8_ds (s : State) (r : Reg8) (v : Byte) : (s.setReg8 r v).ds = s.ds := by cases r <;> rfl
@[simp] theorem State.setReg8_gdtr (s : State) (r : Reg8) (v : Byte) : (s.setReg8 r v).gdtr = s.gdtr := by cases r <;> rfl
@[simp] theorem State.setReg8_idtr (s : State) (r : Reg8) (v : Byte) : (s.setReg8 r v).idtr = s.idtr := by cases r <;> rfl
@[simp] theorem State.setReg8_ldtr (s : State) (r : Reg8) (v : Byte) : (s.setReg8 r v).ldtr = s.ldtr := by cases r <;> rfl
@[simp] theorem State.setReg8_tr (s : State) (r : Reg8) (v : Byte) : (s.setReg8 r v).tr = s.tr := by cases r <;> rfl
@[simp] theorem State.setReg8_npx (s : State) (r : Reg8) (v : Byte) : (s.setReg8 r v).npx = s.npx := by cases r <;> rfl
@[simp] theorem State.setReg8_npxPresent (s : State) (r : Reg8) (v : Byte) : (s.setReg8 r v).npxPresent = s.npxPresent := by cases r <;> rfl
@[simp] theorem State.setReg8_mem (s : State) (r : Reg8) (v : Byte) : (s.setReg8 r v).mem = s.mem := by cases r <;> rfl
@[simp] theorem State.setReg8_platform (s : State) (r : Reg8) (v : Byte) : (s.setReg8 r v).platform = s.platform := by cases r <;> rfl
@[simp] theorem State.setReg8_run (s : State) (r : Reg8) (v : Byte) : (s.setReg8 r v).run = s.run := by cases r <;> rfl
@[simp] theorem State.setReg8_inhibitAll (s : State) (r : Reg8) (v : Byte) : (s.setReg8 r v).inhibitAll = s.inhibitAll := by cases r <;> rfl
@[simp] theorem State.setReg8_inhibitIntr (s : State) (r : Reg8) (v : Byte) : (s.setReg8 r v).inhibitIntr = s.inhibitIntr := by cases r <;> rfl
@[simp] theorem State.setReg8_nmiPending (s : State) (r : Reg8) (v : Byte) : (s.setReg8 r v).nmiPending = s.nmiPending := by cases r <;> rfl
@[simp] theorem State.setReg8_nmiInService (s : State) (r : Reg8) (v : Byte) : (s.setReg8 r v).nmiInService = s.nmiInService := by cases r <;> rfl
@[simp] theorem State.setReg8_mpPending (s : State) (r : Reg8) (v : Byte) : (s.setReg8 r v).mpPending = s.mpPending := by cases r <;> rfl
@[simp] theorem State.setReg8_stepPending (s : State) (r : Reg8) (v : Byte) : (s.setReg8 r v).stepPending = s.stepPending := by cases r <;> rfl
@[simp] theorem State.setReg8_tfAtStart (s : State) (r : Reg8) (v : Byte) : (s.setReg8 r v).tfAtStart = s.tfAtStart := by cases r <;> rfl
@[simp] theorem State.setReg8_istart (s : State) (r : Reg8) (v : Byte) : (s.setReg8 r v).istart = s.istart := by cases r <;> rfl
@[simp] theorem State.setReg8_pfx (s : State) (r : Reg8) (v : Byte) : (s.setReg8 r v).pfx = s.pfx := by cases r <;> rfl
@[simp] theorem State.setReg8_held (s : State) (r : Reg8) (v : Byte) : (s.setReg8 r v).held = s.held := by cases r <;> rfl
@[simp] theorem State.setReg8_stale (s : State) (r : Reg8) (v : Byte) : (s.setReg8 r v).stale = s.stale := by cases r <;> rfl
@[simp] theorem State.setReg8_ioTrace (s : State) (r : Reg8) (v : Byte) : (s.setReg8 r v).ioTrace = s.ioTrace := by cases r <;> rfl
@[simp] theorem State.setReg8_inputs (s : State) (r : Reg8) (v : Byte) : (s.setReg8 r v).inputs = s.inputs := by cases r <;> rfl
@[simp] theorem State.setReg8_free (s : State) (r : Reg8) (v : Byte) : (s.setReg8 r v).free = s.free := by cases r <;> rfl
@[simp] theorem State.setReg8_clock (s : State) (r : Reg8) (v : Byte) : (s.setReg8 r v).clock = s.clock := by cases r <;> rfl

/-! ## `State.setSeg` -/

@[simp] theorem State.setSeg_ax (s : State) (r : Sreg) (v : SegReg) : (s.setSeg r v).ax = s.ax := by cases r <;> rfl
@[simp] theorem State.setSeg_cx (s : State) (r : Sreg) (v : SegReg) : (s.setSeg r v).cx = s.cx := by cases r <;> rfl
@[simp] theorem State.setSeg_dx (s : State) (r : Sreg) (v : SegReg) : (s.setSeg r v).dx = s.dx := by cases r <;> rfl
@[simp] theorem State.setSeg_bx (s : State) (r : Sreg) (v : SegReg) : (s.setSeg r v).bx = s.bx := by cases r <;> rfl
@[simp] theorem State.setSeg_sp (s : State) (r : Sreg) (v : SegReg) : (s.setSeg r v).sp = s.sp := by cases r <;> rfl
@[simp] theorem State.setSeg_bp (s : State) (r : Sreg) (v : SegReg) : (s.setSeg r v).bp = s.bp := by cases r <;> rfl
@[simp] theorem State.setSeg_si (s : State) (r : Sreg) (v : SegReg) : (s.setSeg r v).si = s.si := by cases r <;> rfl
@[simp] theorem State.setSeg_di (s : State) (r : Sreg) (v : SegReg) : (s.setSeg r v).di = s.di := by cases r <;> rfl
@[simp] theorem State.setSeg_ip (s : State) (r : Sreg) (v : SegReg) : (s.setSeg r v).ip = s.ip := by cases r <;> rfl
@[simp] theorem State.setSeg_ipCarry (s : State) (r : Sreg) (v : SegReg) : (s.setSeg r v).ipCarry = s.ipCarry := by cases r <;> rfl
@[simp] theorem State.setSeg_flags (s : State) (r : Sreg) (v : SegReg) : (s.setSeg r v).flags = s.flags := by cases r <;> rfl
@[simp] theorem State.setSeg_msw (s : State) (r : Sreg) (v : SegReg) : (s.setSeg r v).msw = s.msw := by cases r <;> rfl
@[simp] theorem State.setSeg_gdtr (s : State) (r : Sreg) (v : SegReg) : (s.setSeg r v).gdtr = s.gdtr := by cases r <;> rfl
@[simp] theorem State.setSeg_idtr (s : State) (r : Sreg) (v : SegReg) : (s.setSeg r v).idtr = s.idtr := by cases r <;> rfl
@[simp] theorem State.setSeg_ldtr (s : State) (r : Sreg) (v : SegReg) : (s.setSeg r v).ldtr = s.ldtr := by cases r <;> rfl
@[simp] theorem State.setSeg_tr (s : State) (r : Sreg) (v : SegReg) : (s.setSeg r v).tr = s.tr := by cases r <;> rfl
@[simp] theorem State.setSeg_npx (s : State) (r : Sreg) (v : SegReg) : (s.setSeg r v).npx = s.npx := by cases r <;> rfl
@[simp] theorem State.setSeg_npxPresent (s : State) (r : Sreg) (v : SegReg) : (s.setSeg r v).npxPresent = s.npxPresent := by cases r <;> rfl
@[simp] theorem State.setSeg_mem (s : State) (r : Sreg) (v : SegReg) : (s.setSeg r v).mem = s.mem := by cases r <;> rfl
@[simp] theorem State.setSeg_platform (s : State) (r : Sreg) (v : SegReg) : (s.setSeg r v).platform = s.platform := by cases r <;> rfl
@[simp] theorem State.setSeg_run (s : State) (r : Sreg) (v : SegReg) : (s.setSeg r v).run = s.run := by cases r <;> rfl
@[simp] theorem State.setSeg_inhibitAll (s : State) (r : Sreg) (v : SegReg) : (s.setSeg r v).inhibitAll = s.inhibitAll := by cases r <;> rfl
@[simp] theorem State.setSeg_inhibitIntr (s : State) (r : Sreg) (v : SegReg) : (s.setSeg r v).inhibitIntr = s.inhibitIntr := by cases r <;> rfl
@[simp] theorem State.setSeg_nmiPending (s : State) (r : Sreg) (v : SegReg) : (s.setSeg r v).nmiPending = s.nmiPending := by cases r <;> rfl
@[simp] theorem State.setSeg_nmiInService (s : State) (r : Sreg) (v : SegReg) : (s.setSeg r v).nmiInService = s.nmiInService := by cases r <;> rfl
@[simp] theorem State.setSeg_mpPending (s : State) (r : Sreg) (v : SegReg) : (s.setSeg r v).mpPending = s.mpPending := by cases r <;> rfl
@[simp] theorem State.setSeg_stepPending (s : State) (r : Sreg) (v : SegReg) : (s.setSeg r v).stepPending = s.stepPending := by cases r <;> rfl
@[simp] theorem State.setSeg_tfAtStart (s : State) (r : Sreg) (v : SegReg) : (s.setSeg r v).tfAtStart = s.tfAtStart := by cases r <;> rfl
@[simp] theorem State.setSeg_istart (s : State) (r : Sreg) (v : SegReg) : (s.setSeg r v).istart = s.istart := by cases r <;> rfl
@[simp] theorem State.setSeg_pfx (s : State) (r : Sreg) (v : SegReg) : (s.setSeg r v).pfx = s.pfx := by cases r <;> rfl
@[simp] theorem State.setSeg_held (s : State) (r : Sreg) (v : SegReg) : (s.setSeg r v).held = s.held := by cases r <;> rfl
@[simp] theorem State.setSeg_stale (s : State) (r : Sreg) (v : SegReg) : (s.setSeg r v).stale = s.stale := by cases r <;> rfl
@[simp] theorem State.setSeg_ioTrace (s : State) (r : Sreg) (v : SegReg) : (s.setSeg r v).ioTrace = s.ioTrace := by cases r <;> rfl
@[simp] theorem State.setSeg_inputs (s : State) (r : Sreg) (v : SegReg) : (s.setSeg r v).inputs = s.inputs := by cases r <;> rfl
@[simp] theorem State.setSeg_free (s : State) (r : Sreg) (v : SegReg) : (s.setSeg r v).free = s.free := by cases r <;> rfl
@[simp] theorem State.setSeg_clock (s : State) (r : Sreg) (v : SegReg) : (s.setSeg r v).clock = s.clock := by cases r <;> rfl

/-! ## `State.setFlag` -/

@[simp] theorem State.setFlag_ax (s : State) (f : Flag) (b : Bool) : (s.setFlag f b).ax = s.ax := rfl
@[simp] theorem State.setFlag_cx (s : State) (f : Flag) (b : Bool) : (s.setFlag f b).cx = s.cx := rfl
@[simp] theorem State.setFlag_dx (s : State) (f : Flag) (b : Bool) : (s.setFlag f b).dx = s.dx := rfl
@[simp] theorem State.setFlag_bx (s : State) (f : Flag) (b : Bool) : (s.setFlag f b).bx = s.bx := rfl
@[simp] theorem State.setFlag_sp (s : State) (f : Flag) (b : Bool) : (s.setFlag f b).sp = s.sp := rfl
@[simp] theorem State.setFlag_bp (s : State) (f : Flag) (b : Bool) : (s.setFlag f b).bp = s.bp := rfl
@[simp] theorem State.setFlag_si (s : State) (f : Flag) (b : Bool) : (s.setFlag f b).si = s.si := rfl
@[simp] theorem State.setFlag_di (s : State) (f : Flag) (b : Bool) : (s.setFlag f b).di = s.di := rfl
@[simp] theorem State.setFlag_ip (s : State) (f : Flag) (b : Bool) : (s.setFlag f b).ip = s.ip := rfl
@[simp] theorem State.setFlag_ipCarry (s : State) (f : Flag) (b : Bool) : (s.setFlag f b).ipCarry = s.ipCarry := rfl
@[simp] theorem State.setFlag_flags (s : State) (f : Flag) (b : Bool) : (s.setFlag f b).flags = putFlag s.flags f b := rfl
@[simp] theorem State.setFlag_msw (s : State) (f : Flag) (b : Bool) : (s.setFlag f b).msw = s.msw := rfl
@[simp] theorem State.setFlag_es (s : State) (f : Flag) (b : Bool) : (s.setFlag f b).es = s.es := rfl
@[simp] theorem State.setFlag_cs (s : State) (f : Flag) (b : Bool) : (s.setFlag f b).cs = s.cs := rfl
@[simp] theorem State.setFlag_ss (s : State) (f : Flag) (b : Bool) : (s.setFlag f b).ss = s.ss := rfl
@[simp] theorem State.setFlag_ds (s : State) (f : Flag) (b : Bool) : (s.setFlag f b).ds = s.ds := rfl
@[simp] theorem State.setFlag_gdtr (s : State) (f : Flag) (b : Bool) : (s.setFlag f b).gdtr = s.gdtr := rfl
@[simp] theorem State.setFlag_idtr (s : State) (f : Flag) (b : Bool) : (s.setFlag f b).idtr = s.idtr := rfl
@[simp] theorem State.setFlag_ldtr (s : State) (f : Flag) (b : Bool) : (s.setFlag f b).ldtr = s.ldtr := rfl
@[simp] theorem State.setFlag_tr (s : State) (f : Flag) (b : Bool) : (s.setFlag f b).tr = s.tr := rfl
@[simp] theorem State.setFlag_npx (s : State) (f : Flag) (b : Bool) : (s.setFlag f b).npx = s.npx := rfl
@[simp] theorem State.setFlag_npxPresent (s : State) (f : Flag) (b : Bool) : (s.setFlag f b).npxPresent = s.npxPresent := rfl
@[simp] theorem State.setFlag_mem (s : State) (f : Flag) (b : Bool) : (s.setFlag f b).mem = s.mem := rfl
@[simp] theorem State.setFlag_platform (s : State) (f : Flag) (b : Bool) : (s.setFlag f b).platform = s.platform := rfl
@[simp] theorem State.setFlag_run (s : State) (f : Flag) (b : Bool) : (s.setFlag f b).run = s.run := rfl
@[simp] theorem State.setFlag_inhibitAll (s : State) (f : Flag) (b : Bool) : (s.setFlag f b).inhibitAll = s.inhibitAll := rfl
@[simp] theorem State.setFlag_inhibitIntr (s : State) (f : Flag) (b : Bool) : (s.setFlag f b).inhibitIntr = s.inhibitIntr := rfl
@[simp] theorem State.setFlag_nmiPending (s : State) (f : Flag) (b : Bool) : (s.setFlag f b).nmiPending = s.nmiPending := rfl
@[simp] theorem State.setFlag_nmiInService (s : State) (f : Flag) (b : Bool) : (s.setFlag f b).nmiInService = s.nmiInService := rfl
@[simp] theorem State.setFlag_mpPending (s : State) (f : Flag) (b : Bool) : (s.setFlag f b).mpPending = s.mpPending := rfl
@[simp] theorem State.setFlag_stepPending (s : State) (f : Flag) (b : Bool) : (s.setFlag f b).stepPending = s.stepPending := rfl
@[simp] theorem State.setFlag_tfAtStart (s : State) (f : Flag) (b : Bool) : (s.setFlag f b).tfAtStart = s.tfAtStart := rfl
@[simp] theorem State.setFlag_istart (s : State) (f : Flag) (b : Bool) : (s.setFlag f b).istart = s.istart := rfl
@[simp] theorem State.setFlag_pfx (s : State) (f : Flag) (b : Bool) : (s.setFlag f b).pfx = s.pfx := rfl
@[simp] theorem State.setFlag_held (s : State) (f : Flag) (b : Bool) : (s.setFlag f b).held = s.held := rfl
@[simp] theorem State.setFlag_stale (s : State) (f : Flag) (b : Bool) : (s.setFlag f b).stale = s.stale := rfl
@[simp] theorem State.setFlag_ioTrace (s : State) (f : Flag) (b : Bool) : (s.setFlag f b).ioTrace = s.ioTrace := rfl
@[simp] theorem State.setFlag_inputs (s : State) (f : Flag) (b : Bool) : (s.setFlag f b).inputs = s.inputs := rfl
@[simp] theorem State.setFlag_free (s : State) (f : Flag) (b : Bool) : (s.setFlag f b).free = s.free := rfl
@[simp] theorem State.setFlag_clock (s : State) (f : Flag) (b : Bool) : (s.setFlag f b).clock = s.clock := rfl

/-! ## `State.jumpTo` -/

@[simp] theorem State.jumpTo_ax (s : State) (off : Word) : (s.jumpTo off).ax = s.ax := rfl
@[simp] theorem State.jumpTo_cx (s : State) (off : Word) : (s.jumpTo off).cx = s.cx := rfl
@[simp] theorem State.jumpTo_dx (s : State) (off : Word) : (s.jumpTo off).dx = s.dx := rfl
@[simp] theorem State.jumpTo_bx (s : State) (off : Word) : (s.jumpTo off).bx = s.bx := rfl
@[simp] theorem State.jumpTo_sp (s : State) (off : Word) : (s.jumpTo off).sp = s.sp := rfl
@[simp] theorem State.jumpTo_bp (s : State) (off : Word) : (s.jumpTo off).bp = s.bp := rfl
@[simp] theorem State.jumpTo_si (s : State) (off : Word) : (s.jumpTo off).si = s.si := rfl
@[simp] theorem State.jumpTo_di (s : State) (off : Word) : (s.jumpTo off).di = s.di := rfl
@[simp] theorem State.jumpTo_ip (s : State) (off : Word) : (s.jumpTo off).ip = off := rfl
@[simp] theorem State.jumpTo_ipCarry (s : State) (off : Word) : (s.jumpTo off).ipCarry = false := rfl
@[simp] theorem State.jumpTo_flags (s : State) (off : Word) : (s.jumpTo off).flags = s.flags := rfl
@[simp] theorem State.jumpTo_msw (s : State) (off : Word) : (s.jumpTo off).msw = s.msw := rfl
@[simp] theorem State.jumpTo_es (s : State) (off : Word) : (s.jumpTo off).es = s.es := rfl
@[simp] theorem State.jumpTo_cs (s : State) (off : Word) : (s.jumpTo off).cs = s.cs := rfl
@[simp] theorem State.jumpTo_ss (s : State) (off : Word) : (s.jumpTo off).ss = s.ss := rfl
@[simp] theorem State.jumpTo_ds (s : State) (off : Word) : (s.jumpTo off).ds = s.ds := rfl
@[simp] theorem State.jumpTo_gdtr (s : State) (off : Word) : (s.jumpTo off).gdtr = s.gdtr := rfl
@[simp] theorem State.jumpTo_idtr (s : State) (off : Word) : (s.jumpTo off).idtr = s.idtr := rfl
@[simp] theorem State.jumpTo_ldtr (s : State) (off : Word) : (s.jumpTo off).ldtr = s.ldtr := rfl
@[simp] theorem State.jumpTo_tr (s : State) (off : Word) : (s.jumpTo off).tr = s.tr := rfl
@[simp] theorem State.jumpTo_npx (s : State) (off : Word) : (s.jumpTo off).npx = s.npx := rfl
@[simp] theorem State.jumpTo_npxPresent (s : State) (off : Word) : (s.jumpTo off).npxPresent = s.npxPresent := rfl
@[simp] theorem State.jumpTo_mem (s : State) (off : Word) : (s.jumpTo off).mem = s.mem := rfl
@[simp] theorem State.jumpTo_platform (s : State) (off : Word) : (s.jumpTo off).platform = s.platform := rfl
@[simp] theorem State.jumpTo_run (s : State) (off : Word) : (s.jumpTo off).run = s.run := rfl
@[simp] theorem State.jumpTo_inhibitAll (s : State) (off : Word) : (s.jumpTo off).inhibitAll = s.inhibitAll := rfl
@[simp] theorem State.jumpTo_inhibitIntr (s : State) (off : Word) : (s.jumpTo off).inhibitIntr = s.inhibitIntr := rfl
@[simp] theorem State.jumpTo_nmiPending (s : State) (off : Word) : (s.jumpTo off).nmiPending = s.nmiPending := rfl
@[simp] theorem State.jumpTo_nmiInService (s : State) (off : Word) : (s.jumpTo off).nmiInService = s.nmiInService := rfl
@[simp] theorem State.jumpTo_mpPending (s : State) (off : Word) : (s.jumpTo off).mpPending = s.mpPending := rfl
@[simp] theorem State.jumpTo_stepPending (s : State) (off : Word) : (s.jumpTo off).stepPending = s.stepPending := rfl
@[simp] theorem State.jumpTo_tfAtStart (s : State) (off : Word) : (s.jumpTo off).tfAtStart = s.tfAtStart := rfl
@[simp] theorem State.jumpTo_istart (s : State) (off : Word) : (s.jumpTo off).istart = s.istart := rfl
@[simp] theorem State.jumpTo_pfx (s : State) (off : Word) : (s.jumpTo off).pfx = s.pfx := rfl
@[simp] theorem State.jumpTo_held (s : State) (off : Word) : (s.jumpTo off).held = s.held := rfl
@[simp] theorem State.jumpTo_stale (s : State) (off : Word) : (s.jumpTo off).stale = [] := rfl
@[simp] theorem State.jumpTo_ioTrace (s : State) (off : Word) : (s.jumpTo off).ioTrace = s.ioTrace := rfl
@[simp] theorem State.jumpTo_inputs (s : State) (off : Word) : (s.jumpTo off).inputs = s.inputs := rfl
@[simp] theorem State.jumpTo_free (s : State) (off : Word) : (s.jumpTo off).free = s.free := rfl
@[simp] theorem State.jumpTo_clock (s : State) (off : Word) : (s.jumpTo off).clock = s.clock := rfl

/-! ## `State.drawn` -/

@[simp] theorem State.drawn_ax (s : State) : (s.drawn).ax = s.ax := rfl
@[simp] theorem State.drawn_cx (s : State) : (s.drawn).cx = s.cx := rfl
@[simp] theorem State.drawn_dx (s : State) : (s.drawn).dx = s.dx := rfl
@[simp] theorem State.drawn_bx (s : State) : (s.drawn).bx = s.bx := rfl
@[simp] theorem State.drawn_sp (s : State) : (s.drawn).sp = s.sp := rfl
@[simp] theorem State.drawn_bp (s : State) : (s.drawn).bp = s.bp := rfl
@[simp] theorem State.drawn_si (s : State) : (s.drawn).si = s.si := rfl
@[simp] theorem State.drawn_di (s : State) : (s.drawn).di = s.di := rfl
@[simp] theorem State.drawn_ip (s : State) : (s.drawn).ip = s.ip := rfl
@[simp] theorem State.drawn_ipCarry (s : State) : (s.drawn).ipCarry = s.ipCarry := rfl
@[simp] theorem State.drawn_flags (s : State) : (s.drawn).flags = s.flags := rfl
@[simp] theorem State.drawn_msw (s : State) : (s.drawn).msw = s.msw := rfl
@[simp] theorem State.drawn_es (s : State) : (s.drawn).es = s.es := rfl
@[simp] theorem State.drawn_cs (s : State) : (s.drawn).cs = s.cs := rfl
@[simp] theorem State.drawn_ss (s : State) : (s.drawn).ss = s.ss := rfl
@[simp] theorem State.drawn_ds (s : State) : (s.drawn).ds = s.ds := rfl
@[simp] theorem State.drawn_gdtr (s : State) : (s.drawn).gdtr = s.gdtr := rfl
@[simp] theorem State.drawn_idtr (s : State) : (s.drawn).idtr = s.idtr := rfl
@[simp] theorem State.drawn_ldtr (s : State) : (s.drawn).ldtr = s.ldtr := rfl
@[simp] theorem State.drawn_tr (s : State) : (s.drawn).tr = s.tr := rfl
@[simp] theorem State.drawn_npx (s : State) : (s.drawn).npx = s.npx := rfl
@[simp] theorem State.drawn_npxPresent (s : State) : (s.drawn).npxPresent = s.npxPresent := rfl
@[simp] theorem State.drawn_mem (s : State) : (s.drawn).mem = s.mem := rfl
@[simp] theorem State.drawn_platform (s : State) : (s.drawn).platform = s.platform := rfl
@[simp] theorem State.drawn_run (s : State) : (s.drawn).run = s.run := rfl
@[simp] theorem State.drawn_inhibitAll (s : State) : (s.drawn).inhibitAll = s.inhibitAll := rfl
@[simp] theorem State.drawn_inhibitIntr (s : State) : (s.drawn).inhibitIntr = s.inhibitIntr := rfl
@[simp] theorem State.drawn_nmiPending (s : State) : (s.drawn).nmiPending = s.nmiPending := rfl
@[simp] theorem State.drawn_nmiInService (s : State) : (s.drawn).nmiInService = s.nmiInService := rfl
@[simp] theorem State.drawn_mpPending (s : State) : (s.drawn).mpPending = s.mpPending := rfl
@[simp] theorem State.drawn_stepPending (s : State) : (s.drawn).stepPending = s.stepPending := rfl
@[simp] theorem State.drawn_tfAtStart (s : State) : (s.drawn).tfAtStart = s.tfAtStart := rfl
@[simp] theorem State.drawn_istart (s : State) : (s.drawn).istart = s.istart := rfl
@[simp] theorem State.drawn_pfx (s : State) : (s.drawn).pfx = s.pfx := rfl
@[simp] theorem State.drawn_held (s : State) : (s.drawn).held = s.held := rfl
@[simp] theorem State.drawn_stale (s : State) : (s.drawn).stale = s.stale := rfl
@[simp] theorem State.drawn_ioTrace (s : State) : (s.drawn).ioTrace = s.ioTrace := rfl
@[simp] theorem State.drawn_inputs (s : State) : (s.drawn).inputs = s.inputs := rfl
@[simp] theorem State.drawn_free (s : State) : (s.drawn).free = s.free + 1 := rfl
@[simp] theorem State.drawn_clock (s : State) : (s.drawn).clock = s.clock := rfl

/-! ## `State.setRam` -/

@[simp] theorem State.setRam_ax (s : State) (p : Addr) (v : Byte) : (s.setRam p v).ax = s.ax := rfl
@[simp] theorem State.setRam_cx (s : State) (p : Addr) (v : Byte) : (s.setRam p v).cx = s.cx := rfl
@[simp] theorem State.setRam_dx (s : State) (p : Addr) (v : Byte) : (s.setRam p v).dx = s.dx := rfl
@[simp] theorem State.setRam_bx (s : State) (p : Addr) (v : Byte) : (s.setRam p v).bx = s.bx := rfl
@[simp] theorem State.setRam_sp (s : State) (p : Addr) (v : Byte) : (s.setRam p v).sp = s.sp := rfl
@[simp] theorem State.setRam_bp (s : State) (p : Addr) (v : Byte) : (s.setRam p v).bp = s.bp := rfl
@[simp] theorem State.setRam_si (s : State) (p : Addr) (v : Byte) : (s.setRam p v).si = s.si := rfl
@[simp] theorem State.setRam_di (s : State) (p : Addr) (v : Byte) : (s.setRam p v).di = s.di := rfl
@[simp] theorem State.setRam_ip (s : State) (p : Addr) (v : Byte) : (s.setRam p v).ip = s.ip := rfl
@[simp] theorem State.setRam_ipCarry (s : State) (p : Addr) (v : Byte) : (s.setRam p v).ipCarry = s.ipCarry := rfl
@[simp] theorem State.setRam_flags (s : State) (p : Addr) (v : Byte) : (s.setRam p v).flags = s.flags := rfl
@[simp] theorem State.setRam_msw (s : State) (p : Addr) (v : Byte) : (s.setRam p v).msw = s.msw := rfl
@[simp] theorem State.setRam_es (s : State) (p : Addr) (v : Byte) : (s.setRam p v).es = s.es := rfl
@[simp] theorem State.setRam_cs (s : State) (p : Addr) (v : Byte) : (s.setRam p v).cs = s.cs := rfl
@[simp] theorem State.setRam_ss (s : State) (p : Addr) (v : Byte) : (s.setRam p v).ss = s.ss := rfl
@[simp] theorem State.setRam_ds (s : State) (p : Addr) (v : Byte) : (s.setRam p v).ds = s.ds := rfl
@[simp] theorem State.setRam_gdtr (s : State) (p : Addr) (v : Byte) : (s.setRam p v).gdtr = s.gdtr := rfl
@[simp] theorem State.setRam_idtr (s : State) (p : Addr) (v : Byte) : (s.setRam p v).idtr = s.idtr := rfl
@[simp] theorem State.setRam_ldtr (s : State) (p : Addr) (v : Byte) : (s.setRam p v).ldtr = s.ldtr := rfl
@[simp] theorem State.setRam_tr (s : State) (p : Addr) (v : Byte) : (s.setRam p v).tr = s.tr := rfl
@[simp] theorem State.setRam_npx (s : State) (p : Addr) (v : Byte) : (s.setRam p v).npx = s.npx := rfl
@[simp] theorem State.setRam_npxPresent (s : State) (p : Addr) (v : Byte) : (s.setRam p v).npxPresent = s.npxPresent := rfl
@[simp] theorem State.setRam_mem (s : State) (p : Addr) (v : Byte) : (s.setRam p v).mem = s.ramAfter p v := rfl
@[simp] theorem State.setRam_platform (s : State) (p : Addr) (v : Byte) : (s.setRam p v).platform = s.platform := rfl
@[simp] theorem State.setRam_run (s : State) (p : Addr) (v : Byte) : (s.setRam p v).run = s.run := rfl
@[simp] theorem State.setRam_inhibitAll (s : State) (p : Addr) (v : Byte) : (s.setRam p v).inhibitAll = s.inhibitAll := rfl
@[simp] theorem State.setRam_inhibitIntr (s : State) (p : Addr) (v : Byte) : (s.setRam p v).inhibitIntr = s.inhibitIntr := rfl
@[simp] theorem State.setRam_nmiPending (s : State) (p : Addr) (v : Byte) : (s.setRam p v).nmiPending = s.nmiPending := rfl
@[simp] theorem State.setRam_nmiInService (s : State) (p : Addr) (v : Byte) : (s.setRam p v).nmiInService = s.nmiInService := rfl
@[simp] theorem State.setRam_mpPending (s : State) (p : Addr) (v : Byte) : (s.setRam p v).mpPending = s.mpPending := rfl
@[simp] theorem State.setRam_stepPending (s : State) (p : Addr) (v : Byte) : (s.setRam p v).stepPending = s.stepPending := rfl
@[simp] theorem State.setRam_tfAtStart (s : State) (p : Addr) (v : Byte) : (s.setRam p v).tfAtStart = s.tfAtStart := rfl
@[simp] theorem State.setRam_istart (s : State) (p : Addr) (v : Byte) : (s.setRam p v).istart = s.istart := rfl
@[simp] theorem State.setRam_pfx (s : State) (p : Addr) (v : Byte) : (s.setRam p v).pfx = s.pfx := rfl
@[simp] theorem State.setRam_held (s : State) (p : Addr) (v : Byte) : (s.setRam p v).held = s.held := rfl
@[simp] theorem State.setRam_ioTrace (s : State) (p : Addr) (v : Byte) : (s.setRam p v).ioTrace = s.ioTrace := rfl
@[simp] theorem State.setRam_inputs (s : State) (p : Addr) (v : Byte) : (s.setRam p v).inputs = s.inputs := rfl
@[simp] theorem State.setRam_free (s : State) (p : Addr) (v : Byte) : (s.setRam p v).free = s.free := rfl
@[simp] theorem State.setRam_clock (s : State) (p : Addr) (v : Byte) : (s.setRam p v).clock = s.clock := rfl

/-! ## `State.writeByte` -/

@[simp] theorem State.writeByte_ax (s : State) (a : Addr) (v : Byte) : (s.writeByte a v).ax = s.ax := rfl
@[simp] theorem State.writeByte_cx (s : State) (a : Addr) (v : Byte) : (s.writeByte a v).cx = s.cx := rfl
@[simp] theorem State.writeByte_dx (s : State) (a : Addr) (v : Byte) : (s.writeByte a v).dx = s.dx := rfl
@[simp] theorem State.writeByte_bx (s : State) (a : Addr) (v : Byte) : (s.writeByte a v).bx = s.bx := rfl
@[simp] theorem State.writeByte_sp (s : State) (a : Addr) (v : Byte) : (s.writeByte a v).sp = s.sp := rfl
@[simp] theorem State.writeByte_bp (s : State) (a : Addr) (v : Byte) : (s.writeByte a v).bp = s.bp := rfl
@[simp] theorem State.writeByte_si (s : State) (a : Addr) (v : Byte) : (s.writeByte a v).si = s.si := rfl
@[simp] theorem State.writeByte_di (s : State) (a : Addr) (v : Byte) : (s.writeByte a v).di = s.di := rfl
@[simp] theorem State.writeByte_ip (s : State) (a : Addr) (v : Byte) : (s.writeByte a v).ip = s.ip := rfl
@[simp] theorem State.writeByte_ipCarry (s : State) (a : Addr) (v : Byte) : (s.writeByte a v).ipCarry = s.ipCarry := rfl
@[simp] theorem State.writeByte_flags (s : State) (a : Addr) (v : Byte) : (s.writeByte a v).flags = s.flags := rfl
@[simp] theorem State.writeByte_msw (s : State) (a : Addr) (v : Byte) : (s.writeByte a v).msw = s.msw := rfl
@[simp] theorem State.writeByte_es (s : State) (a : Addr) (v : Byte) : (s.writeByte a v).es = s.es := rfl
@[simp] theorem State.writeByte_cs (s : State) (a : Addr) (v : Byte) : (s.writeByte a v).cs = s.cs := rfl
@[simp] theorem State.writeByte_ss (s : State) (a : Addr) (v : Byte) : (s.writeByte a v).ss = s.ss := rfl
@[simp] theorem State.writeByte_ds (s : State) (a : Addr) (v : Byte) : (s.writeByte a v).ds = s.ds := rfl
@[simp] theorem State.writeByte_gdtr (s : State) (a : Addr) (v : Byte) : (s.writeByte a v).gdtr = s.gdtr := rfl
@[simp] theorem State.writeByte_idtr (s : State) (a : Addr) (v : Byte) : (s.writeByte a v).idtr = s.idtr := rfl
@[simp] theorem State.writeByte_ldtr (s : State) (a : Addr) (v : Byte) : (s.writeByte a v).ldtr = s.ldtr := rfl
@[simp] theorem State.writeByte_tr (s : State) (a : Addr) (v : Byte) : (s.writeByte a v).tr = s.tr := rfl
@[simp] theorem State.writeByte_npx (s : State) (a : Addr) (v : Byte) : (s.writeByte a v).npx = s.npx := rfl
@[simp] theorem State.writeByte_npxPresent (s : State) (a : Addr) (v : Byte) : (s.writeByte a v).npxPresent = s.npxPresent := rfl
@[simp] theorem State.writeByte_mem (s : State) (a : Addr) (v : Byte) : (s.writeByte a v).mem = s.ramAfter (s.physical a) v := rfl
@[simp] theorem State.writeByte_platform (s : State) (a : Addr) (v : Byte) : (s.writeByte a v).platform = s.platform := rfl
@[simp] theorem State.writeByte_run (s : State) (a : Addr) (v : Byte) : (s.writeByte a v).run = s.run := rfl
@[simp] theorem State.writeByte_inhibitAll (s : State) (a : Addr) (v : Byte) : (s.writeByte a v).inhibitAll = s.inhibitAll := rfl
@[simp] theorem State.writeByte_inhibitIntr (s : State) (a : Addr) (v : Byte) : (s.writeByte a v).inhibitIntr = s.inhibitIntr := rfl
@[simp] theorem State.writeByte_nmiPending (s : State) (a : Addr) (v : Byte) : (s.writeByte a v).nmiPending = s.nmiPending := rfl
@[simp] theorem State.writeByte_nmiInService (s : State) (a : Addr) (v : Byte) : (s.writeByte a v).nmiInService = s.nmiInService := rfl
@[simp] theorem State.writeByte_mpPending (s : State) (a : Addr) (v : Byte) : (s.writeByte a v).mpPending = s.mpPending := rfl
@[simp] theorem State.writeByte_stepPending (s : State) (a : Addr) (v : Byte) : (s.writeByte a v).stepPending = s.stepPending := rfl
@[simp] theorem State.writeByte_tfAtStart (s : State) (a : Addr) (v : Byte) : (s.writeByte a v).tfAtStart = s.tfAtStart := rfl
@[simp] theorem State.writeByte_istart (s : State) (a : Addr) (v : Byte) : (s.writeByte a v).istart = s.istart := rfl
@[simp] theorem State.writeByte_pfx (s : State) (a : Addr) (v : Byte) : (s.writeByte a v).pfx = s.pfx := rfl
@[simp] theorem State.writeByte_held (s : State) (a : Addr) (v : Byte) : (s.writeByte a v).held = s.held := rfl
@[simp] theorem State.writeByte_ioTrace (s : State) (a : Addr) (v : Byte) : (s.writeByte a v).ioTrace = s.traceAfter (s.physical a) v := rfl
@[simp] theorem State.writeByte_inputs (s : State) (a : Addr) (v : Byte) : (s.writeByte a v).inputs = s.inputs := rfl
@[simp] theorem State.writeByte_free (s : State) (a : Addr) (v : Byte) : (s.writeByte a v).free = s.free := rfl
@[simp] theorem State.writeByte_clock (s : State) (a : Addr) (v : Byte) : (s.writeByte a v).clock = s.clock := rfl

/-! ## `State.writeWord` -/

@[simp] theorem State.writeWord_ax (s : State) (a : Addr) (v : Word) : (s.writeWord a v).ax = s.ax := (State.writeByte_ax _ _ _).trans (State.writeByte_ax _ _ _)
@[simp] theorem State.writeWord_cx (s : State) (a : Addr) (v : Word) : (s.writeWord a v).cx = s.cx := (State.writeByte_cx _ _ _).trans (State.writeByte_cx _ _ _)
@[simp] theorem State.writeWord_dx (s : State) (a : Addr) (v : Word) : (s.writeWord a v).dx = s.dx := (State.writeByte_dx _ _ _).trans (State.writeByte_dx _ _ _)
@[simp] theorem State.writeWord_bx (s : State) (a : Addr) (v : Word) : (s.writeWord a v).bx = s.bx := (State.writeByte_bx _ _ _).trans (State.writeByte_bx _ _ _)
@[simp] theorem State.writeWord_sp (s : State) (a : Addr) (v : Word) : (s.writeWord a v).sp = s.sp := (State.writeByte_sp _ _ _).trans (State.writeByte_sp _ _ _)
@[simp] theorem State.writeWord_bp (s : State) (a : Addr) (v : Word) : (s.writeWord a v).bp = s.bp := (State.writeByte_bp _ _ _).trans (State.writeByte_bp _ _ _)
@[simp] theorem State.writeWord_si (s : State) (a : Addr) (v : Word) : (s.writeWord a v).si = s.si := (State.writeByte_si _ _ _).trans (State.writeByte_si _ _ _)
@[simp] theorem State.writeWord_di (s : State) (a : Addr) (v : Word) : (s.writeWord a v).di = s.di := (State.writeByte_di _ _ _).trans (State.writeByte_di _ _ _)
@[simp] theorem State.writeWord_ip (s : State) (a : Addr) (v : Word) : (s.writeWord a v).ip = s.ip := (State.writeByte_ip _ _ _).trans (State.writeByte_ip _ _ _)
@[simp] theorem State.writeWord_ipCarry (s : State) (a : Addr) (v : Word) : (s.writeWord a v).ipCarry = s.ipCarry := (State.writeByte_ipCarry _ _ _).trans (State.writeByte_ipCarry _ _ _)
@[simp] theorem State.writeWord_flags (s : State) (a : Addr) (v : Word) : (s.writeWord a v).flags = s.flags := (State.writeByte_flags _ _ _).trans (State.writeByte_flags _ _ _)
@[simp] theorem State.writeWord_msw (s : State) (a : Addr) (v : Word) : (s.writeWord a v).msw = s.msw := (State.writeByte_msw _ _ _).trans (State.writeByte_msw _ _ _)
@[simp] theorem State.writeWord_es (s : State) (a : Addr) (v : Word) : (s.writeWord a v).es = s.es := (State.writeByte_es _ _ _).trans (State.writeByte_es _ _ _)
@[simp] theorem State.writeWord_cs (s : State) (a : Addr) (v : Word) : (s.writeWord a v).cs = s.cs := (State.writeByte_cs _ _ _).trans (State.writeByte_cs _ _ _)
@[simp] theorem State.writeWord_ss (s : State) (a : Addr) (v : Word) : (s.writeWord a v).ss = s.ss := (State.writeByte_ss _ _ _).trans (State.writeByte_ss _ _ _)
@[simp] theorem State.writeWord_ds (s : State) (a : Addr) (v : Word) : (s.writeWord a v).ds = s.ds := (State.writeByte_ds _ _ _).trans (State.writeByte_ds _ _ _)
@[simp] theorem State.writeWord_gdtr (s : State) (a : Addr) (v : Word) : (s.writeWord a v).gdtr = s.gdtr := (State.writeByte_gdtr _ _ _).trans (State.writeByte_gdtr _ _ _)
@[simp] theorem State.writeWord_idtr (s : State) (a : Addr) (v : Word) : (s.writeWord a v).idtr = s.idtr := (State.writeByte_idtr _ _ _).trans (State.writeByte_idtr _ _ _)
@[simp] theorem State.writeWord_ldtr (s : State) (a : Addr) (v : Word) : (s.writeWord a v).ldtr = s.ldtr := (State.writeByte_ldtr _ _ _).trans (State.writeByte_ldtr _ _ _)
@[simp] theorem State.writeWord_tr (s : State) (a : Addr) (v : Word) : (s.writeWord a v).tr = s.tr := (State.writeByte_tr _ _ _).trans (State.writeByte_tr _ _ _)
@[simp] theorem State.writeWord_npx (s : State) (a : Addr) (v : Word) : (s.writeWord a v).npx = s.npx := (State.writeByte_npx _ _ _).trans (State.writeByte_npx _ _ _)
@[simp] theorem State.writeWord_npxPresent (s : State) (a : Addr) (v : Word) : (s.writeWord a v).npxPresent = s.npxPresent := (State.writeByte_npxPresent _ _ _).trans (State.writeByte_npxPresent _ _ _)
@[simp] theorem State.writeWord_platform (s : State) (a : Addr) (v : Word) : (s.writeWord a v).platform = s.platform := (State.writeByte_platform _ _ _).trans (State.writeByte_platform _ _ _)
@[simp] theorem State.writeWord_run (s : State) (a : Addr) (v : Word) : (s.writeWord a v).run = s.run := (State.writeByte_run _ _ _).trans (State.writeByte_run _ _ _)
@[simp] theorem State.writeWord_inhibitAll (s : State) (a : Addr) (v : Word) : (s.writeWord a v).inhibitAll = s.inhibitAll := (State.writeByte_inhibitAll _ _ _).trans (State.writeByte_inhibitAll _ _ _)
@[simp] theorem State.writeWord_inhibitIntr (s : State) (a : Addr) (v : Word) : (s.writeWord a v).inhibitIntr = s.inhibitIntr := (State.writeByte_inhibitIntr _ _ _).trans (State.writeByte_inhibitIntr _ _ _)
@[simp] theorem State.writeWord_nmiPending (s : State) (a : Addr) (v : Word) : (s.writeWord a v).nmiPending = s.nmiPending := (State.writeByte_nmiPending _ _ _).trans (State.writeByte_nmiPending _ _ _)
@[simp] theorem State.writeWord_nmiInService (s : State) (a : Addr) (v : Word) : (s.writeWord a v).nmiInService = s.nmiInService := (State.writeByte_nmiInService _ _ _).trans (State.writeByte_nmiInService _ _ _)
@[simp] theorem State.writeWord_mpPending (s : State) (a : Addr) (v : Word) : (s.writeWord a v).mpPending = s.mpPending := (State.writeByte_mpPending _ _ _).trans (State.writeByte_mpPending _ _ _)
@[simp] theorem State.writeWord_stepPending (s : State) (a : Addr) (v : Word) : (s.writeWord a v).stepPending = s.stepPending := (State.writeByte_stepPending _ _ _).trans (State.writeByte_stepPending _ _ _)
@[simp] theorem State.writeWord_tfAtStart (s : State) (a : Addr) (v : Word) : (s.writeWord a v).tfAtStart = s.tfAtStart := (State.writeByte_tfAtStart _ _ _).trans (State.writeByte_tfAtStart _ _ _)
@[simp] theorem State.writeWord_istart (s : State) (a : Addr) (v : Word) : (s.writeWord a v).istart = s.istart := (State.writeByte_istart _ _ _).trans (State.writeByte_istart _ _ _)
@[simp] theorem State.writeWord_pfx (s : State) (a : Addr) (v : Word) : (s.writeWord a v).pfx = s.pfx := (State.writeByte_pfx _ _ _).trans (State.writeByte_pfx _ _ _)
@[simp] theorem State.writeWord_held (s : State) (a : Addr) (v : Word) : (s.writeWord a v).held = s.held := (State.writeByte_held _ _ _).trans (State.writeByte_held _ _ _)
@[simp] theorem State.writeWord_inputs (s : State) (a : Addr) (v : Word) : (s.writeWord a v).inputs = s.inputs := (State.writeByte_inputs _ _ _).trans (State.writeByte_inputs _ _ _)
@[simp] theorem State.writeWord_free (s : State) (a : Addr) (v : Word) : (s.writeWord a v).free = s.free := (State.writeByte_free _ _ _).trans (State.writeByte_free _ _ _)
@[simp] theorem State.writeWord_clock (s : State) (a : Addr) (v : Word) : (s.writeWord a v).clock = s.clock := (State.writeByte_clock _ _ _).trans (State.writeByte_clock _ _ _)

/-! ## `State.pushWord` -/

@[simp] theorem State.pushWord_ax (s : State) (v : Word) : (s.pushWord v).ax = s.ax := State.writeWord_ax _ _ _
@[simp] theorem State.pushWord_cx (s : State) (v : Word) : (s.pushWord v).cx = s.cx := State.writeWord_cx _ _ _
@[simp] theorem State.pushWord_dx (s : State) (v : Word) : (s.pushWord v).dx = s.dx := State.writeWord_dx _ _ _
@[simp] theorem State.pushWord_bx (s : State) (v : Word) : (s.pushWord v).bx = s.bx := State.writeWord_bx _ _ _
@[simp] theorem State.pushWord_bp (s : State) (v : Word) : (s.pushWord v).bp = s.bp := State.writeWord_bp _ _ _
@[simp] theorem State.pushWord_si (s : State) (v : Word) : (s.pushWord v).si = s.si := State.writeWord_si _ _ _
@[simp] theorem State.pushWord_di (s : State) (v : Word) : (s.pushWord v).di = s.di := State.writeWord_di _ _ _
@[simp] theorem State.pushWord_ip (s : State) (v : Word) : (s.pushWord v).ip = s.ip := State.writeWord_ip _ _ _
@[simp] theorem State.pushWord_ipCarry (s : State) (v : Word) : (s.pushWord v).ipCarry = s.ipCarry := State.writeWord_ipCarry _ _ _
@[simp] theorem State.pushWord_flags (s : State) (v : Word) : (s.pushWord v).flags = s.flags := State.writeWord_flags _ _ _
@[simp] theorem State.pushWord_msw (s : State) (v : Word) : (s.pushWord v).msw = s.msw := State.writeWord_msw _ _ _
@[simp] theorem State.pushWord_es (s : State) (v : Word) : (s.pushWord v).es = s.es := State.writeWord_es _ _ _
@[simp] theorem State.pushWord_cs (s : State) (v : Word) : (s.pushWord v).cs = s.cs := State.writeWord_cs _ _ _
@[simp] theorem State.pushWord_ss (s : State) (v : Word) : (s.pushWord v).ss = s.ss := State.writeWord_ss _ _ _
@[simp] theorem State.pushWord_ds (s : State) (v : Word) : (s.pushWord v).ds = s.ds := State.writeWord_ds _ _ _
@[simp] theorem State.pushWord_gdtr (s : State) (v : Word) : (s.pushWord v).gdtr = s.gdtr := State.writeWord_gdtr _ _ _
@[simp] theorem State.pushWord_idtr (s : State) (v : Word) : (s.pushWord v).idtr = s.idtr := State.writeWord_idtr _ _ _
@[simp] theorem State.pushWord_ldtr (s : State) (v : Word) : (s.pushWord v).ldtr = s.ldtr := State.writeWord_ldtr _ _ _
@[simp] theorem State.pushWord_tr (s : State) (v : Word) : (s.pushWord v).tr = s.tr := State.writeWord_tr _ _ _
@[simp] theorem State.pushWord_npx (s : State) (v : Word) : (s.pushWord v).npx = s.npx := State.writeWord_npx _ _ _
@[simp] theorem State.pushWord_npxPresent (s : State) (v : Word) : (s.pushWord v).npxPresent = s.npxPresent := State.writeWord_npxPresent _ _ _
@[simp] theorem State.pushWord_platform (s : State) (v : Word) : (s.pushWord v).platform = s.platform := State.writeWord_platform _ _ _
@[simp] theorem State.pushWord_run (s : State) (v : Word) : (s.pushWord v).run = s.run := State.writeWord_run _ _ _
@[simp] theorem State.pushWord_inhibitAll (s : State) (v : Word) : (s.pushWord v).inhibitAll = s.inhibitAll := State.writeWord_inhibitAll _ _ _
@[simp] theorem State.pushWord_inhibitIntr (s : State) (v : Word) : (s.pushWord v).inhibitIntr = s.inhibitIntr := State.writeWord_inhibitIntr _ _ _
@[simp] theorem State.pushWord_nmiPending (s : State) (v : Word) : (s.pushWord v).nmiPending = s.nmiPending := State.writeWord_nmiPending _ _ _
@[simp] theorem State.pushWord_nmiInService (s : State) (v : Word) : (s.pushWord v).nmiInService = s.nmiInService := State.writeWord_nmiInService _ _ _
@[simp] theorem State.pushWord_mpPending (s : State) (v : Word) : (s.pushWord v).mpPending = s.mpPending := State.writeWord_mpPending _ _ _
@[simp] theorem State.pushWord_stepPending (s : State) (v : Word) : (s.pushWord v).stepPending = s.stepPending := State.writeWord_stepPending _ _ _
@[simp] theorem State.pushWord_tfAtStart (s : State) (v : Word) : (s.pushWord v).tfAtStart = s.tfAtStart := State.writeWord_tfAtStart _ _ _
@[simp] theorem State.pushWord_istart (s : State) (v : Word) : (s.pushWord v).istart = s.istart := State.writeWord_istart _ _ _
@[simp] theorem State.pushWord_pfx (s : State) (v : Word) : (s.pushWord v).pfx = s.pfx := State.writeWord_pfx _ _ _
@[simp] theorem State.pushWord_held (s : State) (v : Word) : (s.pushWord v).held = s.held := State.writeWord_held _ _ _
@[simp] theorem State.pushWord_inputs (s : State) (v : Word) : (s.pushWord v).inputs = s.inputs := State.writeWord_inputs _ _ _
@[simp] theorem State.pushWord_free (s : State) (v : Word) : (s.pushWord v).free = s.free := State.writeWord_free _ _ _
@[simp] theorem State.pushWord_clock (s : State) (v : Word) : (s.pushWord v).clock = s.clock := State.writeWord_clock _ _ _
@[simp] theorem State.pushWord_sp (s : State) (v : Word) : (s.pushWord v).sp = s.sp - 2 := State.writeWord_sp _ _ _

/-! ## `State.loadSegReal` -/

@[simp] theorem State.loadSegReal_ax (s : State) (r : Sreg) (sel : Word) : (s.loadSegReal r sel).ax = s.ax := by cases r <;> rfl
@[simp] theorem State.loadSegReal_cx (s : State) (r : Sreg) (sel : Word) : (s.loadSegReal r sel).cx = s.cx := by cases r <;> rfl
@[simp] theorem State.loadSegReal_dx (s : State) (r : Sreg) (sel : Word) : (s.loadSegReal r sel).dx = s.dx := by cases r <;> rfl
@[simp] theorem State.loadSegReal_bx (s : State) (r : Sreg) (sel : Word) : (s.loadSegReal r sel).bx = s.bx := by cases r <;> rfl
@[simp] theorem State.loadSegReal_sp (s : State) (r : Sreg) (sel : Word) : (s.loadSegReal r sel).sp = s.sp := by cases r <;> rfl
@[simp] theorem State.loadSegReal_bp (s : State) (r : Sreg) (sel : Word) : (s.loadSegReal r sel).bp = s.bp := by cases r <;> rfl
@[simp] theorem State.loadSegReal_si (s : State) (r : Sreg) (sel : Word) : (s.loadSegReal r sel).si = s.si := by cases r <;> rfl
@[simp] theorem State.loadSegReal_di (s : State) (r : Sreg) (sel : Word) : (s.loadSegReal r sel).di = s.di := by cases r <;> rfl
@[simp] theorem State.loadSegReal_ip (s : State) (r : Sreg) (sel : Word) : (s.loadSegReal r sel).ip = s.ip := by cases r <;> rfl
@[simp] theorem State.loadSegReal_ipCarry (s : State) (r : Sreg) (sel : Word) : (s.loadSegReal r sel).ipCarry = s.ipCarry := by cases r <;> rfl
@[simp] theorem State.loadSegReal_flags (s : State) (r : Sreg) (sel : Word) : (s.loadSegReal r sel).flags = s.flags := by cases r <;> rfl
@[simp] theorem State.loadSegReal_msw (s : State) (r : Sreg) (sel : Word) : (s.loadSegReal r sel).msw = s.msw := by cases r <;> rfl
@[simp] theorem State.loadSegReal_gdtr (s : State) (r : Sreg) (sel : Word) : (s.loadSegReal r sel).gdtr = s.gdtr := by cases r <;> rfl
@[simp] theorem State.loadSegReal_idtr (s : State) (r : Sreg) (sel : Word) : (s.loadSegReal r sel).idtr = s.idtr := by cases r <;> rfl
@[simp] theorem State.loadSegReal_ldtr (s : State) (r : Sreg) (sel : Word) : (s.loadSegReal r sel).ldtr = s.ldtr := by cases r <;> rfl
@[simp] theorem State.loadSegReal_tr (s : State) (r : Sreg) (sel : Word) : (s.loadSegReal r sel).tr = s.tr := by cases r <;> rfl
@[simp] theorem State.loadSegReal_npx (s : State) (r : Sreg) (sel : Word) : (s.loadSegReal r sel).npx = s.npx := by cases r <;> rfl
@[simp] theorem State.loadSegReal_npxPresent (s : State) (r : Sreg) (sel : Word) : (s.loadSegReal r sel).npxPresent = s.npxPresent := by cases r <;> rfl
@[simp] theorem State.loadSegReal_mem (s : State) (r : Sreg) (sel : Word) : (s.loadSegReal r sel).mem = s.mem := by cases r <;> rfl
@[simp] theorem State.loadSegReal_platform (s : State) (r : Sreg) (sel : Word) : (s.loadSegReal r sel).platform = s.platform := by cases r <;> rfl
@[simp] theorem State.loadSegReal_run (s : State) (r : Sreg) (sel : Word) : (s.loadSegReal r sel).run = s.run := by cases r <;> rfl
@[simp] theorem State.loadSegReal_inhibitAll (s : State) (r : Sreg) (sel : Word) : (s.loadSegReal r sel).inhibitAll = s.inhibitAll := by cases r <;> rfl
@[simp] theorem State.loadSegReal_inhibitIntr (s : State) (r : Sreg) (sel : Word) : (s.loadSegReal r sel).inhibitIntr = s.inhibitIntr := by cases r <;> rfl
@[simp] theorem State.loadSegReal_nmiPending (s : State) (r : Sreg) (sel : Word) : (s.loadSegReal r sel).nmiPending = s.nmiPending := by cases r <;> rfl
@[simp] theorem State.loadSegReal_nmiInService (s : State) (r : Sreg) (sel : Word) : (s.loadSegReal r sel).nmiInService = s.nmiInService := by cases r <;> rfl
@[simp] theorem State.loadSegReal_mpPending (s : State) (r : Sreg) (sel : Word) : (s.loadSegReal r sel).mpPending = s.mpPending := by cases r <;> rfl
@[simp] theorem State.loadSegReal_stepPending (s : State) (r : Sreg) (sel : Word) : (s.loadSegReal r sel).stepPending = s.stepPending := by cases r <;> rfl
@[simp] theorem State.loadSegReal_tfAtStart (s : State) (r : Sreg) (sel : Word) : (s.loadSegReal r sel).tfAtStart = s.tfAtStart := by cases r <;> rfl
@[simp] theorem State.loadSegReal_istart (s : State) (r : Sreg) (sel : Word) : (s.loadSegReal r sel).istart = s.istart := by cases r <;> rfl
@[simp] theorem State.loadSegReal_pfx (s : State) (r : Sreg) (sel : Word) : (s.loadSegReal r sel).pfx = s.pfx := by cases r <;> rfl
@[simp] theorem State.loadSegReal_held (s : State) (r : Sreg) (sel : Word) : (s.loadSegReal r sel).held = s.held := by cases r <;> rfl
@[simp] theorem State.loadSegReal_stale (s : State) (r : Sreg) (sel : Word) : (s.loadSegReal r sel).stale = s.stale := by cases r <;> rfl
@[simp] theorem State.loadSegReal_ioTrace (s : State) (r : Sreg) (sel : Word) : (s.loadSegReal r sel).ioTrace = s.ioTrace := by cases r <;> rfl
@[simp] theorem State.loadSegReal_inputs (s : State) (r : Sreg) (sel : Word) : (s.loadSegReal r sel).inputs = s.inputs := by cases r <;> rfl
@[simp] theorem State.loadSegReal_free (s : State) (r : Sreg) (sel : Word) : (s.loadSegReal r sel).free = s.free := by cases r <;> rfl
@[simp] theorem State.loadSegReal_clock (s : State) (r : Sreg) (sel : Word) : (s.loadSegReal r sel).clock = s.clock := by cases r <;> rfl

/-! ## `State.setAccessed` -/

@[simp] theorem State.setAccessed_ax (s : State) (d : Desc) : (s.setAccessed d).ax = s.ax := State.writeByte_ax _ _ _
@[simp] theorem State.setAccessed_cx (s : State) (d : Desc) : (s.setAccessed d).cx = s.cx := State.writeByte_cx _ _ _
@[simp] theorem State.setAccessed_dx (s : State) (d : Desc) : (s.setAccessed d).dx = s.dx := State.writeByte_dx _ _ _
@[simp] theorem State.setAccessed_bx (s : State) (d : Desc) : (s.setAccessed d).bx = s.bx := State.writeByte_bx _ _ _
@[simp] theorem State.setAccessed_sp (s : State) (d : Desc) : (s.setAccessed d).sp = s.sp := State.writeByte_sp _ _ _
@[simp] theorem State.setAccessed_bp (s : State) (d : Desc) : (s.setAccessed d).bp = s.bp := State.writeByte_bp _ _ _
@[simp] theorem State.setAccessed_si (s : State) (d : Desc) : (s.setAccessed d).si = s.si := State.writeByte_si _ _ _
@[simp] theorem State.setAccessed_di (s : State) (d : Desc) : (s.setAccessed d).di = s.di := State.writeByte_di _ _ _
@[simp] theorem State.setAccessed_ip (s : State) (d : Desc) : (s.setAccessed d).ip = s.ip := State.writeByte_ip _ _ _
@[simp] theorem State.setAccessed_ipCarry (s : State) (d : Desc) : (s.setAccessed d).ipCarry = s.ipCarry := State.writeByte_ipCarry _ _ _
@[simp] theorem State.setAccessed_flags (s : State) (d : Desc) : (s.setAccessed d).flags = s.flags := State.writeByte_flags _ _ _
@[simp] theorem State.setAccessed_msw (s : State) (d : Desc) : (s.setAccessed d).msw = s.msw := State.writeByte_msw _ _ _
@[simp] theorem State.setAccessed_es (s : State) (d : Desc) : (s.setAccessed d).es = s.es := State.writeByte_es _ _ _
@[simp] theorem State.setAccessed_cs (s : State) (d : Desc) : (s.setAccessed d).cs = s.cs := State.writeByte_cs _ _ _
@[simp] theorem State.setAccessed_ss (s : State) (d : Desc) : (s.setAccessed d).ss = s.ss := State.writeByte_ss _ _ _
@[simp] theorem State.setAccessed_ds (s : State) (d : Desc) : (s.setAccessed d).ds = s.ds := State.writeByte_ds _ _ _
@[simp] theorem State.setAccessed_gdtr (s : State) (d : Desc) : (s.setAccessed d).gdtr = s.gdtr := State.writeByte_gdtr _ _ _
@[simp] theorem State.setAccessed_idtr (s : State) (d : Desc) : (s.setAccessed d).idtr = s.idtr := State.writeByte_idtr _ _ _
@[simp] theorem State.setAccessed_ldtr (s : State) (d : Desc) : (s.setAccessed d).ldtr = s.ldtr := State.writeByte_ldtr _ _ _
@[simp] theorem State.setAccessed_tr (s : State) (d : Desc) : (s.setAccessed d).tr = s.tr := State.writeByte_tr _ _ _
@[simp] theorem State.setAccessed_npx (s : State) (d : Desc) : (s.setAccessed d).npx = s.npx := State.writeByte_npx _ _ _
@[simp] theorem State.setAccessed_npxPresent (s : State) (d : Desc) : (s.setAccessed d).npxPresent = s.npxPresent := State.writeByte_npxPresent _ _ _
@[simp] theorem State.setAccessed_platform (s : State) (d : Desc) : (s.setAccessed d).platform = s.platform := State.writeByte_platform _ _ _
@[simp] theorem State.setAccessed_run (s : State) (d : Desc) : (s.setAccessed d).run = s.run := State.writeByte_run _ _ _
@[simp] theorem State.setAccessed_inhibitAll (s : State) (d : Desc) : (s.setAccessed d).inhibitAll = s.inhibitAll := State.writeByte_inhibitAll _ _ _
@[simp] theorem State.setAccessed_inhibitIntr (s : State) (d : Desc) : (s.setAccessed d).inhibitIntr = s.inhibitIntr := State.writeByte_inhibitIntr _ _ _
@[simp] theorem State.setAccessed_nmiPending (s : State) (d : Desc) : (s.setAccessed d).nmiPending = s.nmiPending := State.writeByte_nmiPending _ _ _
@[simp] theorem State.setAccessed_nmiInService (s : State) (d : Desc) : (s.setAccessed d).nmiInService = s.nmiInService := State.writeByte_nmiInService _ _ _
@[simp] theorem State.setAccessed_mpPending (s : State) (d : Desc) : (s.setAccessed d).mpPending = s.mpPending := State.writeByte_mpPending _ _ _
@[simp] theorem State.setAccessed_stepPending (s : State) (d : Desc) : (s.setAccessed d).stepPending = s.stepPending := State.writeByte_stepPending _ _ _
@[simp] theorem State.setAccessed_tfAtStart (s : State) (d : Desc) : (s.setAccessed d).tfAtStart = s.tfAtStart := State.writeByte_tfAtStart _ _ _
@[simp] theorem State.setAccessed_istart (s : State) (d : Desc) : (s.setAccessed d).istart = s.istart := State.writeByte_istart _ _ _
@[simp] theorem State.setAccessed_pfx (s : State) (d : Desc) : (s.setAccessed d).pfx = s.pfx := State.writeByte_pfx _ _ _
@[simp] theorem State.setAccessed_held (s : State) (d : Desc) : (s.setAccessed d).held = s.held := State.writeByte_held _ _ _
@[simp] theorem State.setAccessed_inputs (s : State) (d : Desc) : (s.setAccessed d).inputs = s.inputs := State.writeByte_inputs _ _ _
@[simp] theorem State.setAccessed_free (s : State) (d : Desc) : (s.setAccessed d).free = s.free := State.writeByte_free _ _ _
@[simp] theorem State.setAccessed_clock (s : State) (d : Desc) : (s.setAccessed d).clock = s.clock := State.writeByte_clock _ _ _

/-! ## `State.shutDown` -/

@[simp] theorem State.shutDown_ax (s : State) (ret : Word) : (s.shutDown ret).ax = s.ax := rfl
@[simp] theorem State.shutDown_cx (s : State) (ret : Word) : (s.shutDown ret).cx = s.cx := rfl
@[simp] theorem State.shutDown_dx (s : State) (ret : Word) : (s.shutDown ret).dx = s.dx := rfl
@[simp] theorem State.shutDown_bx (s : State) (ret : Word) : (s.shutDown ret).bx = s.bx := rfl
@[simp] theorem State.shutDown_sp (s : State) (ret : Word) : (s.shutDown ret).sp = s.sp := rfl
@[simp] theorem State.shutDown_bp (s : State) (ret : Word) : (s.shutDown ret).bp = s.bp := rfl
@[simp] theorem State.shutDown_si (s : State) (ret : Word) : (s.shutDown ret).si = s.si := rfl
@[simp] theorem State.shutDown_di (s : State) (ret : Word) : (s.shutDown ret).di = s.di := rfl
@[simp] theorem State.shutDown_ip (s : State) (ret : Word) : (s.shutDown ret).ip = ret := rfl
@[simp] theorem State.shutDown_ipCarry (s : State) (ret : Word) : (s.shutDown ret).ipCarry = false := rfl
@[simp] theorem State.shutDown_flags (s : State) (ret : Word) : (s.shutDown ret).flags = s.flags := rfl
@[simp] theorem State.shutDown_msw (s : State) (ret : Word) : (s.shutDown ret).msw = s.msw := rfl
@[simp] theorem State.shutDown_es (s : State) (ret : Word) : (s.shutDown ret).es = s.es := rfl
@[simp] theorem State.shutDown_cs (s : State) (ret : Word) : (s.shutDown ret).cs = s.cs := rfl
@[simp] theorem State.shutDown_ss (s : State) (ret : Word) : (s.shutDown ret).ss = s.ss := rfl
@[simp] theorem State.shutDown_ds (s : State) (ret : Word) : (s.shutDown ret).ds = s.ds := rfl
@[simp] theorem State.shutDown_gdtr (s : State) (ret : Word) : (s.shutDown ret).gdtr = s.gdtr := rfl
@[simp] theorem State.shutDown_idtr (s : State) (ret : Word) : (s.shutDown ret).idtr = s.idtr := rfl
@[simp] theorem State.shutDown_ldtr (s : State) (ret : Word) : (s.shutDown ret).ldtr = s.ldtr := rfl
@[simp] theorem State.shutDown_tr (s : State) (ret : Word) : (s.shutDown ret).tr = s.tr := rfl
@[simp] theorem State.shutDown_npx (s : State) (ret : Word) : (s.shutDown ret).npx = s.npx := rfl
@[simp] theorem State.shutDown_npxPresent (s : State) (ret : Word) : (s.shutDown ret).npxPresent = s.npxPresent := rfl
@[simp] theorem State.shutDown_mem (s : State) (ret : Word) : (s.shutDown ret).mem = s.mem := rfl
@[simp] theorem State.shutDown_platform (s : State) (ret : Word) : (s.shutDown ret).platform = s.platform := rfl
@[simp] theorem State.shutDown_run (s : State) (ret : Word) : (s.shutDown ret).run = .shutdown := rfl
@[simp] theorem State.shutDown_inhibitAll (s : State) (ret : Word) : (s.shutDown ret).inhibitAll = s.inhibitAll := rfl
@[simp] theorem State.shutDown_inhibitIntr (s : State) (ret : Word) : (s.shutDown ret).inhibitIntr = s.inhibitIntr := rfl
@[simp] theorem State.shutDown_nmiPending (s : State) (ret : Word) : (s.shutDown ret).nmiPending = s.nmiPending := rfl
@[simp] theorem State.shutDown_nmiInService (s : State) (ret : Word) : (s.shutDown ret).nmiInService = s.nmiInService := rfl
@[simp] theorem State.shutDown_mpPending (s : State) (ret : Word) : (s.shutDown ret).mpPending = s.mpPending := rfl
@[simp] theorem State.shutDown_stepPending (s : State) (ret : Word) : (s.shutDown ret).stepPending = s.stepPending := rfl
@[simp] theorem State.shutDown_tfAtStart (s : State) (ret : Word) : (s.shutDown ret).tfAtStart = s.tfAtStart := rfl
@[simp] theorem State.shutDown_istart (s : State) (ret : Word) : (s.shutDown ret).istart = s.istart := rfl
@[simp] theorem State.shutDown_pfx (s : State) (ret : Word) : (s.shutDown ret).pfx = s.pfx := rfl
@[simp] theorem State.shutDown_held (s : State) (ret : Word) : (s.shutDown ret).held = s.held := rfl
@[simp] theorem State.shutDown_stale (s : State) (ret : Word) : (s.shutDown ret).stale = s.stale := rfl
@[simp] theorem State.shutDown_ioTrace (s : State) (ret : Word) : (s.shutDown ret).ioTrace = s.ioTrace := rfl
@[simp] theorem State.shutDown_inputs (s : State) (ret : Word) : (s.shutDown ret).inputs = s.inputs := rfl
@[simp] theorem State.shutDown_free (s : State) (ret : Word) : (s.shutDown ret).free = s.free := rfl
@[simp] theorem State.shutDown_clock (s : State) (ret : Word) : (s.shutDown ret).clock = s.clock := rfl

/-! ## `State.ended` -/

@[simp] theorem State.ended_ax (s : State) (tf : Bool) (e : Ending) : (s.ended tf e).ax = s.ax := rfl
@[simp] theorem State.ended_cx (s : State) (tf : Bool) (e : Ending) : (s.ended tf e).cx = s.cx := rfl
@[simp] theorem State.ended_dx (s : State) (tf : Bool) (e : Ending) : (s.ended tf e).dx = s.dx := rfl
@[simp] theorem State.ended_bx (s : State) (tf : Bool) (e : Ending) : (s.ended tf e).bx = s.bx := rfl
@[simp] theorem State.ended_sp (s : State) (tf : Bool) (e : Ending) : (s.ended tf e).sp = s.sp := rfl
@[simp] theorem State.ended_bp (s : State) (tf : Bool) (e : Ending) : (s.ended tf e).bp = s.bp := rfl
@[simp] theorem State.ended_si (s : State) (tf : Bool) (e : Ending) : (s.ended tf e).si = s.si := rfl
@[simp] theorem State.ended_di (s : State) (tf : Bool) (e : Ending) : (s.ended tf e).di = s.di := rfl
@[simp] theorem State.ended_ip (s : State) (tf : Bool) (e : Ending) : (s.ended tf e).ip = s.ip := rfl
@[simp] theorem State.ended_ipCarry (s : State) (tf : Bool) (e : Ending) : (s.ended tf e).ipCarry = s.ipCarry := rfl
@[simp] theorem State.ended_flags (s : State) (tf : Bool) (e : Ending) : (s.ended tf e).flags = s.flags := rfl
@[simp] theorem State.ended_msw (s : State) (tf : Bool) (e : Ending) : (s.ended tf e).msw = s.msw := rfl
@[simp] theorem State.ended_es (s : State) (tf : Bool) (e : Ending) : (s.ended tf e).es = s.es := rfl
@[simp] theorem State.ended_cs (s : State) (tf : Bool) (e : Ending) : (s.ended tf e).cs = s.cs := rfl
@[simp] theorem State.ended_ss (s : State) (tf : Bool) (e : Ending) : (s.ended tf e).ss = s.ss := rfl
@[simp] theorem State.ended_ds (s : State) (tf : Bool) (e : Ending) : (s.ended tf e).ds = s.ds := rfl
@[simp] theorem State.ended_gdtr (s : State) (tf : Bool) (e : Ending) : (s.ended tf e).gdtr = s.gdtr := rfl
@[simp] theorem State.ended_idtr (s : State) (tf : Bool) (e : Ending) : (s.ended tf e).idtr = s.idtr := rfl
@[simp] theorem State.ended_ldtr (s : State) (tf : Bool) (e : Ending) : (s.ended tf e).ldtr = s.ldtr := rfl
@[simp] theorem State.ended_tr (s : State) (tf : Bool) (e : Ending) : (s.ended tf e).tr = s.tr := rfl
@[simp] theorem State.ended_npx (s : State) (tf : Bool) (e : Ending) : (s.ended tf e).npx = s.npx := rfl
@[simp] theorem State.ended_npxPresent (s : State) (tf : Bool) (e : Ending) : (s.ended tf e).npxPresent = s.npxPresent := rfl
@[simp] theorem State.ended_mem (s : State) (tf : Bool) (e : Ending) : (s.ended tf e).mem = s.mem := rfl
@[simp] theorem State.ended_platform (s : State) (tf : Bool) (e : Ending) : (s.ended tf e).platform = s.platform := rfl
@[simp] theorem State.ended_run (s : State) (tf : Bool) (e : Ending) : (s.ended tf e).run = s.run := rfl
@[simp] theorem State.ended_inhibitAll (s : State) (tf : Bool) (e : Ending) : (s.ended tf e).inhibitAll = (e == .inhibitAll) := rfl
@[simp] theorem State.ended_inhibitIntr (s : State) (tf : Bool) (e : Ending) : (s.ended tf e).inhibitIntr = (e == .inhibitIntr) := rfl
@[simp] theorem State.ended_nmiPending (s : State) (tf : Bool) (e : Ending) : (s.ended tf e).nmiPending = s.nmiPending := rfl
@[simp] theorem State.ended_nmiInService (s : State) (tf : Bool) (e : Ending) : (s.ended tf e).nmiInService = s.nmiInService := rfl
@[simp] theorem State.ended_mpPending (s : State) (tf : Bool) (e : Ending) : (s.ended tf e).mpPending = s.mpPending := rfl
@[simp] theorem State.ended_tfAtStart (s : State) (tf : Bool) (e : Ending) : (s.ended tf e).tfAtStart = s.tfAtStart := rfl
@[simp] theorem State.ended_istart (s : State) (tf : Bool) (e : Ending) : (s.ended tf e).istart = s.istart := rfl
@[simp] theorem State.ended_pfx (s : State) (tf : Bool) (e : Ending) : (s.ended tf e).pfx = .none := rfl
@[simp] theorem State.ended_held (s : State) (tf : Bool) (e : Ending) : (s.ended tf e).held = s.held := rfl
@[simp] theorem State.ended_stale (s : State) (tf : Bool) (e : Ending) : (s.ended tf e).stale = s.stale := rfl
@[simp] theorem State.ended_ioTrace (s : State) (tf : Bool) (e : Ending) : (s.ended tf e).ioTrace = s.ioTrace := rfl
@[simp] theorem State.ended_inputs (s : State) (tf : Bool) (e : Ending) : (s.ended tf e).inputs = s.inputs := rfl
@[simp] theorem State.ended_free (s : State) (tf : Bool) (e : Ending) : (s.ended tf e).free = s.free := rfl
@[simp] theorem State.ended_clock (s : State) (tf : Bool) (e : Ending) : (s.ended tf e).clock = s.clock := rfl

/-! ## `State.begunAgain` -/

@[simp] theorem State.begunAgain_ax (s : State) (i : Instr) : (s.begunAgain i).ax = s.ax := rfl
@[simp] theorem State.begunAgain_cx (s : State) (i : Instr) : (s.begunAgain i).cx = s.cx := rfl
@[simp] theorem State.begunAgain_dx (s : State) (i : Instr) : (s.begunAgain i).dx = s.dx := rfl
@[simp] theorem State.begunAgain_bx (s : State) (i : Instr) : (s.begunAgain i).bx = s.bx := rfl
@[simp] theorem State.begunAgain_sp (s : State) (i : Instr) : (s.begunAgain i).sp = s.sp := rfl
@[simp] theorem State.begunAgain_bp (s : State) (i : Instr) : (s.begunAgain i).bp = s.bp := rfl
@[simp] theorem State.begunAgain_si (s : State) (i : Instr) : (s.begunAgain i).si = s.si := rfl
@[simp] theorem State.begunAgain_di (s : State) (i : Instr) : (s.begunAgain i).di = s.di := rfl
@[simp] theorem State.begunAgain_ip (s : State) (i : Instr) : (s.begunAgain i).ip = s.istart := rfl
@[simp] theorem State.begunAgain_ipCarry (s : State) (i : Instr) : (s.begunAgain i).ipCarry = false := rfl
@[simp] theorem State.begunAgain_flags (s : State) (i : Instr) : (s.begunAgain i).flags = s.flags := rfl
@[simp] theorem State.begunAgain_msw (s : State) (i : Instr) : (s.begunAgain i).msw = s.msw := rfl
@[simp] theorem State.begunAgain_es (s : State) (i : Instr) : (s.begunAgain i).es = s.es := rfl
@[simp] theorem State.begunAgain_cs (s : State) (i : Instr) : (s.begunAgain i).cs = s.cs := rfl
@[simp] theorem State.begunAgain_ss (s : State) (i : Instr) : (s.begunAgain i).ss = s.ss := rfl
@[simp] theorem State.begunAgain_ds (s : State) (i : Instr) : (s.begunAgain i).ds = s.ds := rfl
@[simp] theorem State.begunAgain_gdtr (s : State) (i : Instr) : (s.begunAgain i).gdtr = s.gdtr := rfl
@[simp] theorem State.begunAgain_idtr (s : State) (i : Instr) : (s.begunAgain i).idtr = s.idtr := rfl
@[simp] theorem State.begunAgain_ldtr (s : State) (i : Instr) : (s.begunAgain i).ldtr = s.ldtr := rfl
@[simp] theorem State.begunAgain_tr (s : State) (i : Instr) : (s.begunAgain i).tr = s.tr := rfl
@[simp] theorem State.begunAgain_npx (s : State) (i : Instr) : (s.begunAgain i).npx = s.npx := rfl
@[simp] theorem State.begunAgain_npxPresent (s : State) (i : Instr) : (s.begunAgain i).npxPresent = s.npxPresent := rfl
@[simp] theorem State.begunAgain_mem (s : State) (i : Instr) : (s.begunAgain i).mem = s.mem := rfl
@[simp] theorem State.begunAgain_platform (s : State) (i : Instr) : (s.begunAgain i).platform = s.platform := rfl
@[simp] theorem State.begunAgain_run (s : State) (i : Instr) : (s.begunAgain i).run = s.run := rfl
@[simp] theorem State.begunAgain_inhibitAll (s : State) (i : Instr) : (s.begunAgain i).inhibitAll = s.inhibitAll := rfl
@[simp] theorem State.begunAgain_inhibitIntr (s : State) (i : Instr) : (s.begunAgain i).inhibitIntr = s.inhibitIntr := rfl
@[simp] theorem State.begunAgain_nmiPending (s : State) (i : Instr) : (s.begunAgain i).nmiPending = s.nmiPending := rfl
@[simp] theorem State.begunAgain_nmiInService (s : State) (i : Instr) : (s.begunAgain i).nmiInService = s.nmiInService := rfl
@[simp] theorem State.begunAgain_mpPending (s : State) (i : Instr) : (s.begunAgain i).mpPending = s.mpPending := rfl
@[simp] theorem State.begunAgain_stepPending (s : State) (i : Instr) : (s.begunAgain i).stepPending = s.stepPending := rfl
@[simp] theorem State.begunAgain_tfAtStart (s : State) (i : Instr) : (s.begunAgain i).tfAtStart = s.tfAtStart := rfl
@[simp] theorem State.begunAgain_istart (s : State) (i : Instr) : (s.begunAgain i).istart = s.istart := rfl
@[simp] theorem State.begunAgain_pfx (s : State) (i : Instr) : (s.begunAgain i).pfx = .none := rfl
@[simp] theorem State.begunAgain_held (s : State) (i : Instr) : (s.begunAgain i).held = some { instr := i, pfx := s.pfx, ip := s.ip, ipCarry := s.ipCarry } := rfl
@[simp] theorem State.begunAgain_stale (s : State) (i : Instr) : (s.begunAgain i).stale = s.stale := rfl
@[simp] theorem State.begunAgain_ioTrace (s : State) (i : Instr) : (s.begunAgain i).ioTrace = s.ioTrace := rfl
@[simp] theorem State.begunAgain_inputs (s : State) (i : Instr) : (s.begunAgain i).inputs = s.inputs := rfl
@[simp] theorem State.begunAgain_free (s : State) (i : Instr) : (s.begunAgain i).free = s.free := rfl
@[simp] theorem State.begunAgain_clock (s : State) (i : Instr) : (s.begunAgain i).clock = s.clock := rfl

/-! ## `State.resumed` -/

@[simp] theorem State.resumed_ax (s : State) (h : Held) : (s.resumed h).ax = s.ax := rfl
@[simp] theorem State.resumed_cx (s : State) (h : Held) : (s.resumed h).cx = s.cx := rfl
@[simp] theorem State.resumed_dx (s : State) (h : Held) : (s.resumed h).dx = s.dx := rfl
@[simp] theorem State.resumed_bx (s : State) (h : Held) : (s.resumed h).bx = s.bx := rfl
@[simp] theorem State.resumed_sp (s : State) (h : Held) : (s.resumed h).sp = s.sp := rfl
@[simp] theorem State.resumed_bp (s : State) (h : Held) : (s.resumed h).bp = s.bp := rfl
@[simp] theorem State.resumed_si (s : State) (h : Held) : (s.resumed h).si = s.si := rfl
@[simp] theorem State.resumed_di (s : State) (h : Held) : (s.resumed h).di = s.di := rfl
@[simp] theorem State.resumed_ip (s : State) (h : Held) : (s.resumed h).ip = h.ip := rfl
@[simp] theorem State.resumed_ipCarry (s : State) (h : Held) : (s.resumed h).ipCarry = h.ipCarry := rfl
@[simp] theorem State.resumed_flags (s : State) (h : Held) : (s.resumed h).flags = s.flags := rfl
@[simp] theorem State.resumed_msw (s : State) (h : Held) : (s.resumed h).msw = s.msw := rfl
@[simp] theorem State.resumed_es (s : State) (h : Held) : (s.resumed h).es = s.es := rfl
@[simp] theorem State.resumed_cs (s : State) (h : Held) : (s.resumed h).cs = s.cs := rfl
@[simp] theorem State.resumed_ss (s : State) (h : Held) : (s.resumed h).ss = s.ss := rfl
@[simp] theorem State.resumed_ds (s : State) (h : Held) : (s.resumed h).ds = s.ds := rfl
@[simp] theorem State.resumed_gdtr (s : State) (h : Held) : (s.resumed h).gdtr = s.gdtr := rfl
@[simp] theorem State.resumed_idtr (s : State) (h : Held) : (s.resumed h).idtr = s.idtr := rfl
@[simp] theorem State.resumed_ldtr (s : State) (h : Held) : (s.resumed h).ldtr = s.ldtr := rfl
@[simp] theorem State.resumed_tr (s : State) (h : Held) : (s.resumed h).tr = s.tr := rfl
@[simp] theorem State.resumed_npx (s : State) (h : Held) : (s.resumed h).npx = s.npx := rfl
@[simp] theorem State.resumed_npxPresent (s : State) (h : Held) : (s.resumed h).npxPresent = s.npxPresent := rfl
@[simp] theorem State.resumed_mem (s : State) (h : Held) : (s.resumed h).mem = s.mem := rfl
@[simp] theorem State.resumed_platform (s : State) (h : Held) : (s.resumed h).platform = s.platform := rfl
@[simp] theorem State.resumed_run (s : State) (h : Held) : (s.resumed h).run = s.run := rfl
@[simp] theorem State.resumed_inhibitAll (s : State) (h : Held) : (s.resumed h).inhibitAll = s.inhibitAll := rfl
@[simp] theorem State.resumed_inhibitIntr (s : State) (h : Held) : (s.resumed h).inhibitIntr = s.inhibitIntr := rfl
@[simp] theorem State.resumed_nmiPending (s : State) (h : Held) : (s.resumed h).nmiPending = s.nmiPending := rfl
@[simp] theorem State.resumed_nmiInService (s : State) (h : Held) : (s.resumed h).nmiInService = s.nmiInService := rfl
@[simp] theorem State.resumed_mpPending (s : State) (h : Held) : (s.resumed h).mpPending = s.mpPending := rfl
@[simp] theorem State.resumed_stepPending (s : State) (h : Held) : (s.resumed h).stepPending = s.stepPending := rfl
@[simp] theorem State.resumed_tfAtStart (s : State) (h : Held) : (s.resumed h).tfAtStart = s.tfAtStart := rfl
@[simp] theorem State.resumed_istart (s : State) (h : Held) : (s.resumed h).istart = s.istart := rfl
@[simp] theorem State.resumed_pfx (s : State) (h : Held) : (s.resumed h).pfx = h.pfx := rfl
@[simp] theorem State.resumed_held (s : State) (h : Held) : (s.resumed h).held = none := rfl
@[simp] theorem State.resumed_stale (s : State) (h : Held) : (s.resumed h).stale = s.stale := rfl
@[simp] theorem State.resumed_ioTrace (s : State) (h : Held) : (s.resumed h).ioTrace = s.ioTrace := rfl
@[simp] theorem State.resumed_inputs (s : State) (h : Held) : (s.resumed h).inputs = s.inputs := rfl
@[simp] theorem State.resumed_free (s : State) (h : Held) : (s.resumed h).free = s.free := rfl
@[simp] theorem State.resumed_clock (s : State) (h : Held) : (s.resumed h).clock = s.clock := rfl

/-! ## `State.withPrefix` -/

@[simp] theorem State.withPrefix_ax (s : State) (f : Prefixes → Prefixes) : (s.withPrefix f).ax = s.ax := rfl
@[simp] theorem State.withPrefix_cx (s : State) (f : Prefixes → Prefixes) : (s.withPrefix f).cx = s.cx := rfl
@[simp] theorem State.withPrefix_dx (s : State) (f : Prefixes → Prefixes) : (s.withPrefix f).dx = s.dx := rfl
@[simp] theorem State.withPrefix_bx (s : State) (f : Prefixes → Prefixes) : (s.withPrefix f).bx = s.bx := rfl
@[simp] theorem State.withPrefix_sp (s : State) (f : Prefixes → Prefixes) : (s.withPrefix f).sp = s.sp := rfl
@[simp] theorem State.withPrefix_bp (s : State) (f : Prefixes → Prefixes) : (s.withPrefix f).bp = s.bp := rfl
@[simp] theorem State.withPrefix_si (s : State) (f : Prefixes → Prefixes) : (s.withPrefix f).si = s.si := rfl
@[simp] theorem State.withPrefix_di (s : State) (f : Prefixes → Prefixes) : (s.withPrefix f).di = s.di := rfl
@[simp] theorem State.withPrefix_ip (s : State) (f : Prefixes → Prefixes) : (s.withPrefix f).ip = s.ip := rfl
@[simp] theorem State.withPrefix_ipCarry (s : State) (f : Prefixes → Prefixes) : (s.withPrefix f).ipCarry = s.ipCarry := rfl
@[simp] theorem State.withPrefix_flags (s : State) (f : Prefixes → Prefixes) : (s.withPrefix f).flags = s.flags := rfl
@[simp] theorem State.withPrefix_msw (s : State) (f : Prefixes → Prefixes) : (s.withPrefix f).msw = s.msw := rfl
@[simp] theorem State.withPrefix_es (s : State) (f : Prefixes → Prefixes) : (s.withPrefix f).es = s.es := rfl
@[simp] theorem State.withPrefix_cs (s : State) (f : Prefixes → Prefixes) : (s.withPrefix f).cs = s.cs := rfl
@[simp] theorem State.withPrefix_ss (s : State) (f : Prefixes → Prefixes) : (s.withPrefix f).ss = s.ss := rfl
@[simp] theorem State.withPrefix_ds (s : State) (f : Prefixes → Prefixes) : (s.withPrefix f).ds = s.ds := rfl
@[simp] theorem State.withPrefix_gdtr (s : State) (f : Prefixes → Prefixes) : (s.withPrefix f).gdtr = s.gdtr := rfl
@[simp] theorem State.withPrefix_idtr (s : State) (f : Prefixes → Prefixes) : (s.withPrefix f).idtr = s.idtr := rfl
@[simp] theorem State.withPrefix_ldtr (s : State) (f : Prefixes → Prefixes) : (s.withPrefix f).ldtr = s.ldtr := rfl
@[simp] theorem State.withPrefix_tr (s : State) (f : Prefixes → Prefixes) : (s.withPrefix f).tr = s.tr := rfl
@[simp] theorem State.withPrefix_npx (s : State) (f : Prefixes → Prefixes) : (s.withPrefix f).npx = s.npx := rfl
@[simp] theorem State.withPrefix_npxPresent (s : State) (f : Prefixes → Prefixes) : (s.withPrefix f).npxPresent = s.npxPresent := rfl
@[simp] theorem State.withPrefix_mem (s : State) (f : Prefixes → Prefixes) : (s.withPrefix f).mem = s.mem := rfl
@[simp] theorem State.withPrefix_platform (s : State) (f : Prefixes → Prefixes) : (s.withPrefix f).platform = s.platform := rfl
@[simp] theorem State.withPrefix_run (s : State) (f : Prefixes → Prefixes) : (s.withPrefix f).run = s.run := rfl
@[simp] theorem State.withPrefix_inhibitAll (s : State) (f : Prefixes → Prefixes) : (s.withPrefix f).inhibitAll = s.inhibitAll := rfl
@[simp] theorem State.withPrefix_inhibitIntr (s : State) (f : Prefixes → Prefixes) : (s.withPrefix f).inhibitIntr = s.inhibitIntr := rfl
@[simp] theorem State.withPrefix_nmiPending (s : State) (f : Prefixes → Prefixes) : (s.withPrefix f).nmiPending = s.nmiPending := rfl
@[simp] theorem State.withPrefix_nmiInService (s : State) (f : Prefixes → Prefixes) : (s.withPrefix f).nmiInService = s.nmiInService := rfl
@[simp] theorem State.withPrefix_mpPending (s : State) (f : Prefixes → Prefixes) : (s.withPrefix f).mpPending = s.mpPending := rfl
@[simp] theorem State.withPrefix_stepPending (s : State) (f : Prefixes → Prefixes) : (s.withPrefix f).stepPending = s.stepPending := rfl
@[simp] theorem State.withPrefix_tfAtStart (s : State) (f : Prefixes → Prefixes) : (s.withPrefix f).tfAtStart = s.tfAtStart := rfl
@[simp] theorem State.withPrefix_istart (s : State) (f : Prefixes → Prefixes) : (s.withPrefix f).istart = s.istart := rfl
@[simp] theorem State.withPrefix_held (s : State) (f : Prefixes → Prefixes) : (s.withPrefix f).held = s.held := rfl
@[simp] theorem State.withPrefix_stale (s : State) (f : Prefixes → Prefixes) : (s.withPrefix f).stale = s.stale := rfl
@[simp] theorem State.withPrefix_ioTrace (s : State) (f : Prefixes → Prefixes) : (s.withPrefix f).ioTrace = s.ioTrace := rfl
@[simp] theorem State.withPrefix_inputs (s : State) (f : Prefixes → Prefixes) : (s.withPrefix f).inputs = s.inputs := rfl
@[simp] theorem State.withPrefix_free (s : State) (f : Prefixes → Prefixes) : (s.withPrefix f).free = s.free := rfl
@[simp] theorem State.withPrefix_clock (s : State) (f : Prefixes → Prefixes) : (s.withPrefix f).clock = s.clock := rfl

/-! ## `State.advanced` -/

@[simp] theorem State.advanced_ax (s : State) (n : Nat) : (s.advanced n).ax = s.ax := rfl
@[simp] theorem State.advanced_cx (s : State) (n : Nat) : (s.advanced n).cx = s.cx := rfl
@[simp] theorem State.advanced_dx (s : State) (n : Nat) : (s.advanced n).dx = s.dx := rfl
@[simp] theorem State.advanced_bx (s : State) (n : Nat) : (s.advanced n).bx = s.bx := rfl
@[simp] theorem State.advanced_sp (s : State) (n : Nat) : (s.advanced n).sp = s.sp := rfl
@[simp] theorem State.advanced_bp (s : State) (n : Nat) : (s.advanced n).bp = s.bp := rfl
@[simp] theorem State.advanced_si (s : State) (n : Nat) : (s.advanced n).si = s.si := rfl
@[simp] theorem State.advanced_di (s : State) (n : Nat) : (s.advanced n).di = s.di := rfl
@[simp] theorem State.advanced_flags (s : State) (n : Nat) : (s.advanced n).flags = s.flags := rfl
@[simp] theorem State.advanced_msw (s : State) (n : Nat) : (s.advanced n).msw = s.msw := rfl
@[simp] theorem State.advanced_es (s : State) (n : Nat) : (s.advanced n).es = s.es := rfl
@[simp] theorem State.advanced_cs (s : State) (n : Nat) : (s.advanced n).cs = s.cs := rfl
@[simp] theorem State.advanced_ss (s : State) (n : Nat) : (s.advanced n).ss = s.ss := rfl
@[simp] theorem State.advanced_ds (s : State) (n : Nat) : (s.advanced n).ds = s.ds := rfl
@[simp] theorem State.advanced_gdtr (s : State) (n : Nat) : (s.advanced n).gdtr = s.gdtr := rfl
@[simp] theorem State.advanced_idtr (s : State) (n : Nat) : (s.advanced n).idtr = s.idtr := rfl
@[simp] theorem State.advanced_ldtr (s : State) (n : Nat) : (s.advanced n).ldtr = s.ldtr := rfl
@[simp] theorem State.advanced_tr (s : State) (n : Nat) : (s.advanced n).tr = s.tr := rfl
@[simp] theorem State.advanced_npx (s : State) (n : Nat) : (s.advanced n).npx = s.npx := rfl
@[simp] theorem State.advanced_npxPresent (s : State) (n : Nat) : (s.advanced n).npxPresent = s.npxPresent := rfl
@[simp] theorem State.advanced_mem (s : State) (n : Nat) : (s.advanced n).mem = s.mem := rfl
@[simp] theorem State.advanced_platform (s : State) (n : Nat) : (s.advanced n).platform = s.platform := rfl
@[simp] theorem State.advanced_run (s : State) (n : Nat) : (s.advanced n).run = s.run := rfl
@[simp] theorem State.advanced_inhibitAll (s : State) (n : Nat) : (s.advanced n).inhibitAll = s.inhibitAll := rfl
@[simp] theorem State.advanced_inhibitIntr (s : State) (n : Nat) : (s.advanced n).inhibitIntr = s.inhibitIntr := rfl
@[simp] theorem State.advanced_nmiPending (s : State) (n : Nat) : (s.advanced n).nmiPending = s.nmiPending := rfl
@[simp] theorem State.advanced_nmiInService (s : State) (n : Nat) : (s.advanced n).nmiInService = s.nmiInService := rfl
@[simp] theorem State.advanced_mpPending (s : State) (n : Nat) : (s.advanced n).mpPending = s.mpPending := rfl
@[simp] theorem State.advanced_stepPending (s : State) (n : Nat) : (s.advanced n).stepPending = s.stepPending := rfl
@[simp] theorem State.advanced_tfAtStart (s : State) (n : Nat) : (s.advanced n).tfAtStart = s.tfAtStart := rfl
@[simp] theorem State.advanced_istart (s : State) (n : Nat) : (s.advanced n).istart = s.istart := rfl
@[simp] theorem State.advanced_pfx (s : State) (n : Nat) : (s.advanced n).pfx = s.pfx := rfl
@[simp] theorem State.advanced_held (s : State) (n : Nat) : (s.advanced n).held = s.held := rfl
@[simp] theorem State.advanced_stale (s : State) (n : Nat) : (s.advanced n).stale = s.stale := rfl
@[simp] theorem State.advanced_ioTrace (s : State) (n : Nat) : (s.advanced n).ioTrace = s.ioTrace := rfl
@[simp] theorem State.advanced_inputs (s : State) (n : Nat) : (s.advanced n).inputs = s.inputs := rfl
@[simp] theorem State.advanced_free (s : State) (n : Nat) : (s.advanced n).free = s.free := rfl
@[simp] theorem State.advanced_clock (s : State) (n : Nat) : (s.advanced n).clock = s.clock := rfl

/-! ## `State.begin` -/

@[simp] theorem State.begin_ax (s : State) : (s.begin).ax = s.ax := rfl
@[simp] theorem State.begin_cx (s : State) : (s.begin).cx = s.cx := rfl
@[simp] theorem State.begin_dx (s : State) : (s.begin).dx = s.dx := rfl
@[simp] theorem State.begin_bx (s : State) : (s.begin).bx = s.bx := rfl
@[simp] theorem State.begin_sp (s : State) : (s.begin).sp = s.sp := rfl
@[simp] theorem State.begin_bp (s : State) : (s.begin).bp = s.bp := rfl
@[simp] theorem State.begin_si (s : State) : (s.begin).si = s.si := rfl
@[simp] theorem State.begin_di (s : State) : (s.begin).di = s.di := rfl
@[simp] theorem State.begin_ip (s : State) : (s.begin).ip = s.ip := rfl
@[simp] theorem State.begin_ipCarry (s : State) : (s.begin).ipCarry = s.ipCarry := rfl
@[simp] theorem State.begin_flags (s : State) : (s.begin).flags = s.flags := rfl
@[simp] theorem State.begin_msw (s : State) : (s.begin).msw = s.msw := rfl
@[simp] theorem State.begin_es (s : State) : (s.begin).es = s.es := rfl
@[simp] theorem State.begin_cs (s : State) : (s.begin).cs = s.cs := rfl
@[simp] theorem State.begin_ss (s : State) : (s.begin).ss = s.ss := rfl
@[simp] theorem State.begin_ds (s : State) : (s.begin).ds = s.ds := rfl
@[simp] theorem State.begin_gdtr (s : State) : (s.begin).gdtr = s.gdtr := rfl
@[simp] theorem State.begin_idtr (s : State) : (s.begin).idtr = s.idtr := rfl
@[simp] theorem State.begin_ldtr (s : State) : (s.begin).ldtr = s.ldtr := rfl
@[simp] theorem State.begin_tr (s : State) : (s.begin).tr = s.tr := rfl
@[simp] theorem State.begin_npx (s : State) : (s.begin).npx = s.npx := rfl
@[simp] theorem State.begin_npxPresent (s : State) : (s.begin).npxPresent = s.npxPresent := rfl
@[simp] theorem State.begin_mem (s : State) : (s.begin).mem = s.mem := rfl
@[simp] theorem State.begin_platform (s : State) : (s.begin).platform = s.platform := rfl
@[simp] theorem State.begin_run (s : State) : (s.begin).run = s.run := rfl
@[simp] theorem State.begin_inhibitAll (s : State) : (s.begin).inhibitAll = s.inhibitAll := rfl
@[simp] theorem State.begin_inhibitIntr (s : State) : (s.begin).inhibitIntr = s.inhibitIntr := rfl
@[simp] theorem State.begin_nmiPending (s : State) : (s.begin).nmiPending = s.nmiPending := rfl
@[simp] theorem State.begin_nmiInService (s : State) : (s.begin).nmiInService = s.nmiInService := rfl
@[simp] theorem State.begin_mpPending (s : State) : (s.begin).mpPending = s.mpPending := rfl
@[simp] theorem State.begin_stepPending (s : State) : (s.begin).stepPending = false := rfl
@[simp] theorem State.begin_tfAtStart (s : State) : (s.begin).tfAtStart = s.flag .tf := rfl
@[simp] theorem State.begin_istart (s : State) : (s.begin).istart = s.ip := rfl
@[simp] theorem State.begin_pfx (s : State) : (s.begin).pfx = s.pfx := rfl
@[simp] theorem State.begin_held (s : State) : (s.begin).held = s.held := rfl
@[simp] theorem State.begin_stale (s : State) : (s.begin).stale = s.stale := rfl
@[simp] theorem State.begin_ioTrace (s : State) : (s.begin).ioTrace = s.ioTrace := rfl
@[simp] theorem State.begin_inputs (s : State) : (s.begin).inputs = s.inputs := rfl
@[simp] theorem State.begin_free (s : State) : (s.begin).free = s.free := rfl
@[simp] theorem State.begin_clock (s : State) : (s.begin).clock = s.clock := rfl

/-! ## `State.busWritten` -/

@[simp] theorem State.busWritten_ax (s : State) (ws : List (Addr × Byte)) : (s.busWritten ws).ax = s.ax := by induction ws generalizing s with | nil => rfl | cons w t ih => exact ih _
@[simp] theorem State.busWritten_cx (s : State) (ws : List (Addr × Byte)) : (s.busWritten ws).cx = s.cx := by induction ws generalizing s with | nil => rfl | cons w t ih => exact ih _
@[simp] theorem State.busWritten_dx (s : State) (ws : List (Addr × Byte)) : (s.busWritten ws).dx = s.dx := by induction ws generalizing s with | nil => rfl | cons w t ih => exact ih _
@[simp] theorem State.busWritten_bx (s : State) (ws : List (Addr × Byte)) : (s.busWritten ws).bx = s.bx := by induction ws generalizing s with | nil => rfl | cons w t ih => exact ih _
@[simp] theorem State.busWritten_sp (s : State) (ws : List (Addr × Byte)) : (s.busWritten ws).sp = s.sp := by induction ws generalizing s with | nil => rfl | cons w t ih => exact ih _
@[simp] theorem State.busWritten_bp (s : State) (ws : List (Addr × Byte)) : (s.busWritten ws).bp = s.bp := by induction ws generalizing s with | nil => rfl | cons w t ih => exact ih _
@[simp] theorem State.busWritten_si (s : State) (ws : List (Addr × Byte)) : (s.busWritten ws).si = s.si := by induction ws generalizing s with | nil => rfl | cons w t ih => exact ih _
@[simp] theorem State.busWritten_di (s : State) (ws : List (Addr × Byte)) : (s.busWritten ws).di = s.di := by induction ws generalizing s with | nil => rfl | cons w t ih => exact ih _
@[simp] theorem State.busWritten_ip (s : State) (ws : List (Addr × Byte)) : (s.busWritten ws).ip = s.ip := by induction ws generalizing s with | nil => rfl | cons w t ih => exact ih _
@[simp] theorem State.busWritten_ipCarry (s : State) (ws : List (Addr × Byte)) : (s.busWritten ws).ipCarry = s.ipCarry := by induction ws generalizing s with | nil => rfl | cons w t ih => exact ih _
@[simp] theorem State.busWritten_flags (s : State) (ws : List (Addr × Byte)) : (s.busWritten ws).flags = s.flags := by induction ws generalizing s with | nil => rfl | cons w t ih => exact ih _
@[simp] theorem State.busWritten_msw (s : State) (ws : List (Addr × Byte)) : (s.busWritten ws).msw = s.msw := by induction ws generalizing s with | nil => rfl | cons w t ih => exact ih _
@[simp] theorem State.busWritten_es (s : State) (ws : List (Addr × Byte)) : (s.busWritten ws).es = s.es := by induction ws generalizing s with | nil => rfl | cons w t ih => exact ih _
@[simp] theorem State.busWritten_cs (s : State) (ws : List (Addr × Byte)) : (s.busWritten ws).cs = s.cs := by induction ws generalizing s with | nil => rfl | cons w t ih => exact ih _
@[simp] theorem State.busWritten_ss (s : State) (ws : List (Addr × Byte)) : (s.busWritten ws).ss = s.ss := by induction ws generalizing s with | nil => rfl | cons w t ih => exact ih _
@[simp] theorem State.busWritten_ds (s : State) (ws : List (Addr × Byte)) : (s.busWritten ws).ds = s.ds := by induction ws generalizing s with | nil => rfl | cons w t ih => exact ih _
@[simp] theorem State.busWritten_gdtr (s : State) (ws : List (Addr × Byte)) : (s.busWritten ws).gdtr = s.gdtr := by induction ws generalizing s with | nil => rfl | cons w t ih => exact ih _
@[simp] theorem State.busWritten_idtr (s : State) (ws : List (Addr × Byte)) : (s.busWritten ws).idtr = s.idtr := by induction ws generalizing s with | nil => rfl | cons w t ih => exact ih _
@[simp] theorem State.busWritten_ldtr (s : State) (ws : List (Addr × Byte)) : (s.busWritten ws).ldtr = s.ldtr := by induction ws generalizing s with | nil => rfl | cons w t ih => exact ih _
@[simp] theorem State.busWritten_tr (s : State) (ws : List (Addr × Byte)) : (s.busWritten ws).tr = s.tr := by induction ws generalizing s with | nil => rfl | cons w t ih => exact ih _
@[simp] theorem State.busWritten_npx (s : State) (ws : List (Addr × Byte)) : (s.busWritten ws).npx = s.npx := by induction ws generalizing s with | nil => rfl | cons w t ih => exact ih _
@[simp] theorem State.busWritten_npxPresent (s : State) (ws : List (Addr × Byte)) : (s.busWritten ws).npxPresent = s.npxPresent := by induction ws generalizing s with | nil => rfl | cons w t ih => exact ih _
@[simp] theorem State.busWritten_platform (s : State) (ws : List (Addr × Byte)) : (s.busWritten ws).platform = s.platform := by induction ws generalizing s with | nil => rfl | cons w t ih => exact ih _
@[simp] theorem State.busWritten_run (s : State) (ws : List (Addr × Byte)) : (s.busWritten ws).run = s.run := by induction ws generalizing s with | nil => rfl | cons w t ih => exact ih _
@[simp] theorem State.busWritten_inhibitAll (s : State) (ws : List (Addr × Byte)) : (s.busWritten ws).inhibitAll = s.inhibitAll := by induction ws generalizing s with | nil => rfl | cons w t ih => exact ih _
@[simp] theorem State.busWritten_inhibitIntr (s : State) (ws : List (Addr × Byte)) : (s.busWritten ws).inhibitIntr = s.inhibitIntr := by induction ws generalizing s with | nil => rfl | cons w t ih => exact ih _
@[simp] theorem State.busWritten_nmiPending (s : State) (ws : List (Addr × Byte)) : (s.busWritten ws).nmiPending = s.nmiPending := by induction ws generalizing s with | nil => rfl | cons w t ih => exact ih _
@[simp] theorem State.busWritten_nmiInService (s : State) (ws : List (Addr × Byte)) : (s.busWritten ws).nmiInService = s.nmiInService := by induction ws generalizing s with | nil => rfl | cons w t ih => exact ih _
@[simp] theorem State.busWritten_mpPending (s : State) (ws : List (Addr × Byte)) : (s.busWritten ws).mpPending = s.mpPending := by induction ws generalizing s with | nil => rfl | cons w t ih => exact ih _
@[simp] theorem State.busWritten_stepPending (s : State) (ws : List (Addr × Byte)) : (s.busWritten ws).stepPending = s.stepPending := by induction ws generalizing s with | nil => rfl | cons w t ih => exact ih _
@[simp] theorem State.busWritten_tfAtStart (s : State) (ws : List (Addr × Byte)) : (s.busWritten ws).tfAtStart = s.tfAtStart := by induction ws generalizing s with | nil => rfl | cons w t ih => exact ih _
@[simp] theorem State.busWritten_istart (s : State) (ws : List (Addr × Byte)) : (s.busWritten ws).istart = s.istart := by induction ws generalizing s with | nil => rfl | cons w t ih => exact ih _
@[simp] theorem State.busWritten_pfx (s : State) (ws : List (Addr × Byte)) : (s.busWritten ws).pfx = s.pfx := by induction ws generalizing s with | nil => rfl | cons w t ih => exact ih _
@[simp] theorem State.busWritten_held (s : State) (ws : List (Addr × Byte)) : (s.busWritten ws).held = s.held := by induction ws generalizing s with | nil => rfl | cons w t ih => exact ih _
@[simp] theorem State.busWritten_ioTrace (s : State) (ws : List (Addr × Byte)) : (s.busWritten ws).ioTrace = s.ioTrace := by induction ws generalizing s with | nil => rfl | cons w t ih => exact ih _
@[simp] theorem State.busWritten_inputs (s : State) (ws : List (Addr × Byte)) : (s.busWritten ws).inputs = s.inputs := by induction ws generalizing s with | nil => rfl | cons w t ih => exact ih _
@[simp] theorem State.busWritten_free (s : State) (ws : List (Addr × Byte)) : (s.busWritten ws).free = s.free := by induction ws generalizing s with | nil => rfl | cons w t ih => exact ih _
@[simp] theorem State.busWritten_clock (s : State) (ws : List (Addr × Byte)) : (s.busWritten ws).clock = s.clock := by induction ws generalizing s with | nil => rfl | cons w t ih => exact ih _

/-! ## `State.sampled` -/

@[simp] theorem State.sampled_ax (s : State) : s.sampled.ax = s.ax := by
  unfold State.sampled; split
  · rfl
  · exact State.busWritten_ax _ _
@[simp] theorem State.sampled_cx (s : State) : s.sampled.cx = s.cx := by
  unfold State.sampled; split
  · rfl
  · exact State.busWritten_cx _ _
@[simp] theorem State.sampled_dx (s : State) : s.sampled.dx = s.dx := by
  unfold State.sampled; split
  · rfl
  · exact State.busWritten_dx _ _
@[simp] theorem State.sampled_bx (s : State) : s.sampled.bx = s.bx := by
  unfold State.sampled; split
  · rfl
  · exact State.busWritten_bx _ _
@[simp] theorem State.sampled_sp (s : State) : s.sampled.sp = s.sp := by
  unfold State.sampled; split
  · rfl
  · exact State.busWritten_sp _ _
@[simp] theorem State.sampled_bp (s : State) : s.sampled.bp = s.bp := by
  unfold State.sampled; split
  · rfl
  · exact State.busWritten_bp _ _
@[simp] theorem State.sampled_si (s : State) : s.sampled.si = s.si := by
  unfold State.sampled; split
  · rfl
  · exact State.busWritten_si _ _
@[simp] theorem State.sampled_di (s : State) : s.sampled.di = s.di := by
  unfold State.sampled; split
  · rfl
  · exact State.busWritten_di _ _
@[simp] theorem State.sampled_ip (s : State) : s.sampled.ip = s.ip := by
  unfold State.sampled; split
  · rfl
  · exact State.busWritten_ip _ _
@[simp] theorem State.sampled_ipCarry (s : State) : s.sampled.ipCarry = s.ipCarry := by
  unfold State.sampled; split
  · rfl
  · exact State.busWritten_ipCarry _ _
@[simp] theorem State.sampled_flags (s : State) : s.sampled.flags = s.flags := by
  unfold State.sampled; split
  · rfl
  · exact State.busWritten_flags _ _
@[simp] theorem State.sampled_msw (s : State) : s.sampled.msw = s.msw := by
  unfold State.sampled; split
  · rfl
  · exact State.busWritten_msw _ _
@[simp] theorem State.sampled_es (s : State) : s.sampled.es = s.es := by
  unfold State.sampled; split
  · rfl
  · exact State.busWritten_es _ _
@[simp] theorem State.sampled_cs (s : State) : s.sampled.cs = s.cs := by
  unfold State.sampled; split
  · rfl
  · exact State.busWritten_cs _ _
@[simp] theorem State.sampled_ss (s : State) : s.sampled.ss = s.ss := by
  unfold State.sampled; split
  · rfl
  · exact State.busWritten_ss _ _
@[simp] theorem State.sampled_ds (s : State) : s.sampled.ds = s.ds := by
  unfold State.sampled; split
  · rfl
  · exact State.busWritten_ds _ _
@[simp] theorem State.sampled_gdtr (s : State) : s.sampled.gdtr = s.gdtr := by
  unfold State.sampled; split
  · rfl
  · exact State.busWritten_gdtr _ _
@[simp] theorem State.sampled_idtr (s : State) : s.sampled.idtr = s.idtr := by
  unfold State.sampled; split
  · rfl
  · exact State.busWritten_idtr _ _
@[simp] theorem State.sampled_ldtr (s : State) : s.sampled.ldtr = s.ldtr := by
  unfold State.sampled; split
  · rfl
  · exact State.busWritten_ldtr _ _
@[simp] theorem State.sampled_tr (s : State) : s.sampled.tr = s.tr := by
  unfold State.sampled; split
  · rfl
  · exact State.busWritten_tr _ _
@[simp] theorem State.sampled_npx (s : State) : s.sampled.npx = s.npx := by
  unfold State.sampled; split
  · rfl
  · exact State.busWritten_npx _ _
@[simp] theorem State.sampled_npxPresent (s : State) : s.sampled.npxPresent = s.npxPresent := by
  unfold State.sampled; split
  · rfl
  · exact State.busWritten_npxPresent _ _
@[simp] theorem State.sampled_platform (s : State) : s.sampled.platform = s.platform := by
  unfold State.sampled; split
  · rfl
  · exact State.busWritten_platform _ _
@[simp] theorem State.sampled_run (s : State) : s.sampled.run = s.run := by
  unfold State.sampled; split
  · rfl
  · exact State.busWritten_run _ _
@[simp] theorem State.sampled_inhibitAll (s : State) : s.sampled.inhibitAll = s.inhibitAll := by
  unfold State.sampled; split
  · rfl
  · exact State.busWritten_inhibitAll _ _
@[simp] theorem State.sampled_inhibitIntr (s : State) : s.sampled.inhibitIntr = s.inhibitIntr := by
  unfold State.sampled; split
  · rfl
  · exact State.busWritten_inhibitIntr _ _
@[simp] theorem State.sampled_nmiPending (s : State) : s.sampled.nmiPending = (s.nmiPending || s.input.nmi) := by
  unfold State.sampled; split
  · rfl
  · exact State.busWritten_nmiPending _ _
@[simp] theorem State.sampled_nmiInService (s : State) : s.sampled.nmiInService = s.nmiInService := by
  unfold State.sampled; split
  · rfl
  · exact State.busWritten_nmiInService _ _
@[simp] theorem State.sampled_mpPending (s : State) : s.sampled.mpPending = s.mpPending := by
  unfold State.sampled; split
  · rfl
  · exact State.busWritten_mpPending _ _
@[simp] theorem State.sampled_stepPending (s : State) : s.sampled.stepPending = s.stepPending := by
  unfold State.sampled; split
  · rfl
  · exact State.busWritten_stepPending _ _
@[simp] theorem State.sampled_tfAtStart (s : State) : s.sampled.tfAtStart = s.tfAtStart := by
  unfold State.sampled; split
  · rfl
  · exact State.busWritten_tfAtStart _ _
@[simp] theorem State.sampled_istart (s : State) : s.sampled.istart = s.istart := by
  unfold State.sampled; split
  · rfl
  · exact State.busWritten_istart _ _
@[simp] theorem State.sampled_pfx (s : State) : s.sampled.pfx = s.pfx := by
  unfold State.sampled; split
  · rfl
  · exact State.busWritten_pfx _ _
@[simp] theorem State.sampled_held (s : State) : s.sampled.held = s.held := by
  unfold State.sampled; split
  · rfl
  · exact State.busWritten_held _ _
@[simp] theorem State.sampled_ioTrace (s : State) : s.sampled.ioTrace = s.ioTrace := by
  unfold State.sampled; split
  · rfl
  · exact State.busWritten_ioTrace _ _
@[simp] theorem State.sampled_free (s : State) : s.sampled.free = s.free := by
  unfold State.sampled; split
  · rfl
  · exact State.busWritten_free _ _
@[simp] theorem State.sampled_clock (s : State) : s.sampled.clock = s.clock + 1 := by
  unfold State.sampled; split
  · rfl
  · exact State.busWritten_clock _ _

/-! ## `Npx.setTop` -/

@[simp] theorem Npx.setTop_regs (n : Npx) (t : BitVec 3) : (n.setTop t).regs = n.regs := rfl
@[simp] theorem Npx.setTop_empty (n : Npx) (t : BitVec 3) : (n.setTop t).empty = n.empty := rfl
@[simp] theorem Npx.setTop_control (n : Npx) (t : BitVec 3) : (n.setTop t).control = n.control := rfl
@[simp] theorem Npx.setTop_ip (n : Npx) (t : BitVec 3) : (n.setTop t).ip = n.ip := rfl
@[simp] theorem Npx.setTop_op (n : Npx) (t : BitVec 3) : (n.setTop t).op = n.op := rfl
@[simp] theorem Npx.setTop_opcode (n : Npx) (t : BitVec 3) : (n.setTop t).opcode = n.opcode := rfl
@[simp] theorem Npx.setTop_form (n : Npx) (t : BitVec 3) : (n.setTop t).form = n.form := rfl
@[simp] theorem Npx.setTop_pm (n : Npx) (t : BitVec 3) : (n.setTop t).pm = n.pm := rfl
@[simp] theorem Npx.setTop_busy (n : Npx) (t : BitVec 3) : (n.setTop t).busy = n.busy := rfl

/-! ## `Npx.setSt` -/

@[simp] theorem Npx.setSt_control (n : Npx) (i : BitVec 3) (v : Temp) : (n.setSt i v).control = n.control := rfl
@[simp] theorem Npx.setSt_status (n : Npx) (i : BitVec 3) (v : Temp) : (n.setSt i v).status = n.status := rfl
@[simp] theorem Npx.setSt_ip (n : Npx) (i : BitVec 3) (v : Temp) : (n.setSt i v).ip = n.ip := rfl
@[simp] theorem Npx.setSt_op (n : Npx) (i : BitVec 3) (v : Temp) : (n.setSt i v).op = n.op := rfl
@[simp] theorem Npx.setSt_opcode (n : Npx) (i : BitVec 3) (v : Temp) : (n.setSt i v).opcode = n.opcode := rfl
@[simp] theorem Npx.setSt_form (n : Npx) (i : BitVec 3) (v : Temp) : (n.setSt i v).form = n.form := rfl
@[simp] theorem Npx.setSt_pm (n : Npx) (i : BitVec 3) (v : Temp) : (n.setSt i v).pm = n.pm := rfl
@[simp] theorem Npx.setSt_busy (n : Npx) (i : BitVec 3) (v : Temp) : (n.setSt i v).busy = n.busy := rfl

/-! ## `Npx.free` -/

@[simp] theorem Npx.free_regs (n : Npx) (i : BitVec 3) : (n.free i).regs = n.regs := rfl
@[simp] theorem Npx.free_control (n : Npx) (i : BitVec 3) : (n.free i).control = n.control := rfl
@[simp] theorem Npx.free_status (n : Npx) (i : BitVec 3) : (n.free i).status = n.status := rfl
@[simp] theorem Npx.free_ip (n : Npx) (i : BitVec 3) : (n.free i).ip = n.ip := rfl
@[simp] theorem Npx.free_op (n : Npx) (i : BitVec 3) : (n.free i).op = n.op := rfl
@[simp] theorem Npx.free_opcode (n : Npx) (i : BitVec 3) : (n.free i).opcode = n.opcode := rfl
@[simp] theorem Npx.free_form (n : Npx) (i : BitVec 3) : (n.free i).form = n.form := rfl
@[simp] theorem Npx.free_pm (n : Npx) (i : BitVec 3) : (n.free i).pm = n.pm := rfl
@[simp] theorem Npx.free_busy (n : Npx) (i : BitVec 3) : (n.free i).busy = n.busy := rfl

/-! ## `Npx.pop` -/

@[simp] theorem Npx.pop_regs (n : Npx) : (n.pop).regs = n.regs := rfl
@[simp] theorem Npx.pop_control (n : Npx) : (n.pop).control = n.control := rfl
@[simp] theorem Npx.pop_ip (n : Npx) : (n.pop).ip = n.ip := rfl
@[simp] theorem Npx.pop_op (n : Npx) : (n.pop).op = n.op := rfl
@[simp] theorem Npx.pop_opcode (n : Npx) : (n.pop).opcode = n.opcode := rfl
@[simp] theorem Npx.pop_form (n : Npx) : (n.pop).form = n.form := rfl
@[simp] theorem Npx.pop_pm (n : Npx) : (n.pop).pm = n.pm := rfl
@[simp] theorem Npx.pop_busy (n : Npx) : (n.pop).busy = n.busy := rfl

/-! ## `Npx.push` -/

@[simp] theorem Npx.push_control (n : Npx) (v : Temp) : (n.push v).control = n.control := rfl
@[simp] theorem Npx.push_ip (n : Npx) (v : Temp) : (n.push v).ip = n.ip := rfl
@[simp] theorem Npx.push_op (n : Npx) (v : Temp) : (n.push v).op = n.op := rfl
@[simp] theorem Npx.push_opcode (n : Npx) (v : Temp) : (n.push v).opcode = n.opcode := rfl
@[simp] theorem Npx.push_form (n : Npx) (v : Temp) : (n.push v).form = n.form := rfl
@[simp] theorem Npx.push_pm (n : Npx) (v : Temp) : (n.push v).pm = n.pm := rfl
@[simp] theorem Npx.push_busy (n : Npx) (v : Temp) : (n.push v).busy = n.busy := rfl

/-! ## `Npx.initialized` -/

@[simp] theorem Npx.initialized_regs (n : Npx) : (n.initialized).regs = n.regs := rfl
@[simp] theorem Npx.initialized_empty (n : Npx) : (n.initialized).empty = 0xFF := rfl
@[simp] theorem Npx.initialized_control (n : Npx) : (n.initialized).control = 0x03FF := rfl
@[simp] theorem Npx.initialized_status (n : Npx) : (n.initialized).status = n.status &&& 0x4700 := rfl
@[simp] theorem Npx.initialized_ip (n : Npx) : (n.initialized).ip = n.ip := rfl
@[simp] theorem Npx.initialized_op (n : Npx) : (n.initialized).op = n.op := rfl
@[simp] theorem Npx.initialized_opcode (n : Npx) : (n.initialized).opcode = n.opcode := rfl
@[simp] theorem Npx.initialized_form (n : Npx) : (n.initialized).form = n.form := rfl
@[simp] theorem Npx.initialized_pm (n : Npx) : (n.initialized).pm = n.pm := rfl
@[simp] theorem Npx.initialized_busy (n : Npx) : (n.initialized).busy = false := rfl

end Sys2Proof.Machine
end

