-- ==== Sys2Proof/Laws/Exec.lean ====
section
/-! SUPPORT. How the pieces of a meaning run: one equation for each. -/

namespace Sys2Proof.Machine

variable {α β : Type}

@[simp] theorem pure_run (a : α) (s : State) : (pure a : Exec α) s = .ok a s := rfl

@[simp] theorem bind_run (x : Exec α) (f : α → Exec β) (s : State) :
    (x >>= f) s = match x s with | .ok a t => f a t | .error e t => .error e t := by
  simp only [bind, EStateM.bind]
  cases x s <;> rfl

@[simp] theorem look_run (f : State → α) (s : State) : look f s = .ok (f s) s := rfl

@[simp] theorem update_run (f : State → State) (s : State) : update f s = .ok () (f s) := rfl

@[simp] theorem raise_run (x : Exn) (s : State) : (raise x : Exec α) s = .error (.exn x false) s := rfl

@[simp] theorem raiseKept_run (x : Exn) (s : State) : (raiseKept x : Exec α) s = .error (.exn x true) s := rfl

@[simp] theorem stop_run (e : Stop) (s : State) : (stop e : Exec α) s = .error e s := rfl

@[simp] theorem require_run (c : Bool) (x : Exn) (s : State) :
    require c x s = if c then .ok () s else .error (.exn x false) s := by
  cases c <;> rfl

@[simp] theorem requireKept_run (c : Bool) (x : Exn) (s : State) :
    requireKept c x s = if c then .ok () s else .error (.exn x true) s := by
  cases c <;> rfl

@[simp] theorem setReg16_run (r : Reg16) (v : Word) (s : State) : setReg16 r v s = .ok () (s.setReg16 r v) := rfl

@[simp] theorem setReg8_run (r : Reg8) (v : Byte) (s : State) : setReg8 r v s = .ok () (s.setReg8 r v) := rfl

@[simp] theorem setFlag_run (f : Flag) (b : Bool) (s : State) : setFlag f b s = .ok () (s.setFlag f b) := rfl

@[simp] theorem setFlags_run (f : Word → Word) (s : State) :
    setFlags f s = .ok () { s with flags := f s.flags } := rfl

@[simp] theorem drawBit_run (s : State) : drawBit s = .ok (Config.freeBit s.free) s.drawn := rfl

@[simp] theorem drawByte_run (s : State) : drawByte s = .ok (Config.freeByte s.free) s.drawn := rfl

@[simp] theorem drawWord_run (s : State) : drawWord s = .ok (Config.freeWord s.free) s.drawn := rfl

@[simp] theorem drawTemp_run (s : State) : drawTemp s = .ok (Config.freeTemp s.free) s.drawn := rfl

@[simp] theorem drawNat_run (n : Nat) (s : State) : drawNat n s = .ok (Config.freeNat s.free % (n + 1)) s.drawn := rfl

@[simp] theorem readFlags_run (s : State) : readFlags s = .ok s.flagsImage s.drawn := rfl

@[simp] theorem undefineFlag_run (f : Flag) (s : State) :
    undefineFlag f s = .ok () (s.drawn.setFlag f (Config.freeBit s.free)) := rfl

@[simp] theorem lookNpx_run (f : Npx → α) (s : State) : lookNpx f s = .ok (f s.npx) s := rfl

@[simp] theorem updateNpx_run (f : Npx → Npx) (s : State) : updateNpx f s = .ok () { s with npx := f s.npx } := rfl

@[simp] theorem remainderInvalid_run (v : Temp) (s : State) :
    remainderInvalid v s = .ok (some v) { s with npx := { s.npx with status := putBit s.npx.status 10 false } } := rfl

@[simp] theorem signalApproximate_run (s : State) : signalApproximate s = .ok () { s.drawn with
    npx := { s.npx with status := putBit s.npx.status 5 (s.npx.status.getLsbD 5 || Config.freeBit s.free) } } := rfl

/-- FBSTP of a value that fits eighteen digits makes its image; an integer touches no flag, of another value P is open (R747,
R813, log 30). -/
theorem packedStore_run (t : Temp) (s : State) (h : storableInteger t = true) (fits : (valueOf t).halfAway.1 < 10 ^ 18) :
    ∃ u : State, packedStore false t s = .ok (some (packedImage (valueOf t).neg (valueOf t).halfAway.1)) u ∧
      if (valueOf t).halfAway.2 then signalApproximate s = .ok () u else u = s := by
  have room : decide (10 ^ 18 ≤ (valueOf t).halfAway.1) = false := decide_eq_false (Nat.not_le.mpr fits)
  cases exact : (valueOf t).halfAway.2
  · refine ⟨s, ?_, rfl⟩
    simp only [packedStore, h, room, exact]
    rfl
  · refine ⟨_, ?_, rfl⟩
    simp only [packedStore, h, room, exact]
    rfl

/-- How an instruction that ends in the ordinary way runs. -/
theorem finish_run (body : Exec Unit) (s : State) :
    finish body s = match body s with | .ok _ t => .next (t.ended s.tfAtStart .done) | .error e t => s.stopped t e := by
  simp only [finish, conclude, bind_run, pure_run]
  cases body s <;> rfl

end Sys2Proof.Machine
end

