-- ==== Sys2Proof/Laws/Keeps.lean ====
section
/-! SUPPORT. What a piece of a meaning keeps: a property of states goes through each way of composing pieces, and from a meaning to
the instruction. The proof that every step keeps an invariant is put together from these. -/

namespace Sys2Proof.Machine

variable {α β : Type} {P : State → Prop}

/-- From a state with the property, the piece leaves a state with it, whether it completes or stops. -/
def Keeps (P : State → Prop) (x : Exec α) : Prop :=
  ∀ s : State, P s → match x s with | .ok _ t => P t | .error _ t => P t

theorem Keeps.pure (a : α) : Keeps P (pure a : Exec α) := fun _ h => h

theorem Keeps.look (f : State → α) : Keeps P (look f) := fun _ h => h

theorem Keeps.update {f : State → State} (h : ∀ s, P s → P (f s)) : Keeps P (update f) := fun s hs => h s hs

theorem Keeps.raise (x : Exn) : Keeps P (raise x : Exec α) := fun _ h => h

theorem Keeps.raiseKept (x : Exn) : Keeps P (raiseKept x : Exec α) := fun _ h => h

theorem Keeps.stop (e : Stop) : Keeps P (stop e : Exec α) := fun _ h => h

theorem Keeps.bind {x : Exec α} {f : α → Exec β} (hx : Keeps P x) (hf : ∀ a, Keeps P (f a)) : Keeps P (x >>= f) := by
  intro s hs
  rw [bind_run]
  have := hx s hs
  cases e : x s with
  | ok a t => rw [e] at this; exact hf a t this
  | error a t => rw [e] at this; exact this

theorem Keeps.ite {c : Prop} [Decidable c] {x y : Exec α} (hx : Keeps P x) (hy : Keeps P y) : Keeps P (if c then x else y) := by
  by_cases h : c
  · rw [if_pos h]; exact hx
  · rw [if_neg h]; exact hy

theorem Keeps.require (c : Bool) (x : Exn) : Keeps P (require c x) := Keeps.ite (Keeps.pure ()) (Keeps.raise x)

theorem Keeps.requireKept (c : Bool) (x : Exn) : Keeps P (requireKept c x) := Keeps.ite (Keeps.pure ()) (Keeps.raiseKept x)

theorem Keeps.mono {Q : State → Prop} {x : Exec α} (h : Keeps P x) (hx : ∀ s, Q s ↔ P s) : Keeps Q x := by
  intro s hs
  have := h s ((hx s).1 hs)
  cases e : x s with
  | ok a t => rw [e] at this; exact (hx t).2 this
  | error a t => rw [e] at this; exact (hx t).2 this

theorem Keeps.and {Q : State → Prop} {x : Exec α} (hp : Keeps P x) (hq : Keeps Q x) : Keeps (fun s => P s ∧ Q s) x := by
  intro s hs
  have h1 := hp s hs.1
  have h2 := hq s hs.2
  cases e : x s with
  | ok a t => rw [e] at h1 h2; exact ⟨h1, h2⟩
  | error a t => rw [e] at h1 h2; exact ⟨h1, h2⟩

/-- An instruction keeps what its meaning keeps, if the ways an instruction ends keep it. -/
theorem Keeps.conclude {body : Exec Ending} (hb : Keeps P body)
    (hended : ∀ (t : State) (tf : Bool) (e : Ending), P t → P (t.ended tf e))
    (hagain : ∀ (t : State) (i : Instr), P t → P (t.begunAgain i))
    (hexn : ∀ (x : Exn) (kept : Bool) (s t : State), P s → P t → P (takeException x kept s t))
    (hdown : ∀ (s : State) (n : Nat), P s → P (({ s with free := n } : State).shutDown s.istart))
    {s t : State} (hs : P s) (h : conclude body s = .next t) : P t := by
  unfold Machine.conclude at h
  have hk := hb s hs
  cases e : body s with
  | ok a u =>
    rw [e] at h hk
    cases a <;> injection h with h <;> rw [← h]
    · exact hended _ _ _ hk
    · exact hagain _ _ hk
    · exact hended _ _ _ hk
    · exact hended _ _ _ hk
  | error a u =>
    rw [e] at h hk
    unfold State.stopped at h
    cases a with
    | exn x kept => injection h with h; rw [← h]; exact hended _ _ _ (hexn _ _ _ _ hs hk)
    | shutdown => injection h with h; rw [← h]; exact hended _ _ _ (hdown _ _ hs)
    | refused r => exact absurd h (fun h => by injection h)
    | fault f => exact absurd h (fun h => by injection h)

/-- The same for an instruction that ends in the ordinary way. -/
theorem Keeps.finish {body : Exec Unit} (hb : Keeps P body)
    (hended : ∀ (t : State) (tf : Bool) (e : Ending), P t → P (t.ended tf e))
    (hagain : ∀ (t : State) (i : Instr), P t → P (t.begunAgain i))
    (hexn : ∀ (x : Exn) (kept : Bool) (s t : State), P s → P t → P (takeException x kept s t))
    (hdown : ∀ (s : State) (n : Nat), P s → P (({ s with free := n } : State).shutDown s.istart))
    {s t : State} (hs : P s) (h : finish body s = .next t) : P t :=
  Keeps.conclude (Keeps.bind hb fun _ => Keeps.pure _) hended hagain hexn hdown hs h

end Sys2Proof.Machine
end

