-- ==== Sys2Proof/Laws/Memory.lean ====
section
/-! SUPPORT. Memory: a read after a write, the canonical form, which every write keeps, and what the platform has at an
address. -/

namespace Sys2Proof.Machine

theorem Memory.read_put_same (a : Nat) (v : Byte) (t : List Host.Cell) (h : Memory.read t a = blank) :
    Memory.read (Memory.put a v t) a = v := by
  unfold Memory.put
  split
  · simp_all
  · simp [Memory.read]

theorem Memory.read_put_other (a b : Nat) (v : Byte) (t : List Host.Cell) (h : b ≠ a) :
    Memory.read (Memory.put a v t) b = Memory.read t b := by
  unfold Memory.put
  split
  · rfl
  · simp [Memory.read, Ne.symm h]

theorem Memory.read_blank (m : List Host.Cell) (l a : Nat) (h : Memory.wfFrom (some l) m = true) (ha : a ≤ l) :
    Memory.read m a = blank := by
  induction m generalizing l with
  | nil => rfl
  | cons c t ih =>
    obtain ⟨k, v⟩ := c
    simp only [Memory.wfFrom, Bool.and_eq_true, decide_eq_true_eq] at h
    have hk : k ≠ a := by omega
    simp only [Memory.read, hk, if_false]
    exact ih k h.2 (by omega)

theorem Memory.wfFrom_weaken (m : List Host.Cell) (l : Nat) (h : Memory.wfFrom (some l) m = true) :
    Memory.wfFrom none m = true := by
  cases m with
  | nil => rfl
  | cons c t =>
    obtain ⟨k, v⟩ := c
    simp only [Memory.wfFrom, Bool.and_eq_true] at h ⊢
    exact ⟨⟨⟨trivial, h.1.1.2⟩, h.1.2⟩, h.2⟩

/-- Another address reads as before a write, whatever the form of memory. -/
theorem Memory.read_write_other (m : List Host.Cell) (a b : Nat) (v : Byte) (h : b ≠ a) :
    Memory.read (Memory.write m a v) b = Memory.read m b := by
  induction m with
  | nil => exact read_put_other a b v [] h
  | cons c t ih =>
    obtain ⟨k, w⟩ := c
    unfold Memory.write
    split
    · exact read_put_other a b v _ h
    · split
      · rename_i hk
        subst hk
        rw [read_put_other a b v t h]
        simp [Memory.read, Ne.symm h]
      · simp only [Memory.read, ih]

theorem Memory.read_write_same_from (m : List Host.Cell) (lo : Option Nat) (a : Nat) (v : Byte)
    (h : Memory.wfFrom lo m = true) : Memory.read (Memory.write m a v) a = v := by
  induction m generalizing lo with
  | nil => exact read_put_same a v [] rfl
  | cons c t ih =>
    obtain ⟨k, w⟩ := c
    have h' := h
    simp only [Memory.wfFrom, Bool.and_eq_true, decide_eq_true_eq] at h'
    unfold Memory.write
    split
    · rename_i hlt
      apply read_put_same
      have hk : k ≠ a := by omega
      simp only [Memory.read, hk, if_false]
      exact read_blank t k a h'.2 (by omega)
    · split
      · rename_i hk
        subst hk
        exact read_put_same a v t (read_blank t a a h'.2 (Nat.le_refl a))
      · rename_i hne
        simp only [Memory.read, Ne.symm hne, if_false]
        exact ih _ h'.2

/-- A written byte reads back, memory being in its canonical form. -/
theorem Memory.read_write_same (m : List Host.Cell) (a : Nat) (v : Byte) (h : Memory.wf m = true) :
    Memory.read (Memory.write m a v) a = v := read_write_same_from m none a v h

theorem Memory.wfFrom_put (lo : Option Nat) (a : Nat) (v : Byte) (t : List Host.Cell) (ha : a < 2 ^ 24)
    (hlo : ∀ l, lo = some l → l < a) (ht : Memory.wfFrom (some a) t = true) (ht' : Memory.wfFrom lo t = true) :
    Memory.wfFrom lo (Memory.put a v t) = true := by
  unfold Memory.put
  split
  · exact ht'
  · rename_i hv
    cases lo with
    | none => simp only [Memory.wfFrom, Bool.and_eq_true, decide_eq_true_eq, bne_iff_ne]; exact ⟨⟨⟨trivial, ha⟩, hv⟩, ht⟩
    | some l =>
      simp only [Memory.wfFrom, Bool.and_eq_true, decide_eq_true_eq, bne_iff_ne]
      exact ⟨⟨⟨hlo l rfl, ha⟩, hv⟩, ht⟩

theorem Memory.wfFrom_write (lo : Option Nat) (m : List Host.Cell) (a : Nat) (v : Byte) (ha : a < 2 ^ 24)
    (hlo : ∀ l, lo = some l → l < a) (h : Memory.wfFrom lo m = true) : Memory.wfFrom lo (Memory.write m a v) = true := by
  induction m generalizing lo with
  | nil => exact wfFrom_put lo a v [] ha hlo rfl rfl
  | cons c t ih =>
    obtain ⟨k, w⟩ := c
    have h' := h
    simp only [Memory.wfFrom, Bool.and_eq_true, decide_eq_true_eq] at h'
    unfold Memory.write
    split
    · rename_i hlt
      refine wfFrom_put lo a v _ ha hlo ?_ h
      simp only [Memory.wfFrom, Bool.and_eq_true, decide_eq_true_eq]
      exact ⟨⟨⟨hlt, h'.1.1.2⟩, h'.1.2⟩, h'.2⟩
    · split
      · rename_i hk
        subst hk
        refine wfFrom_put lo a v t ha hlo h'.2 ?_
        cases t with
        | nil => rfl
        | cons d t =>
          obtain ⟨k, w⟩ := d
          have h2 := h'.2
          simp only [Memory.wfFrom, Bool.and_eq_true, decide_eq_true_eq] at h2 ⊢
          refine ⟨⟨⟨?_, h2.1.1.2⟩, h2.1.2⟩, h2.2⟩
          cases lo with
          | none => rfl
          | some l => simp only [decide_eq_true_eq]; have := hlo l rfl; omega
      · rename_i hlt hne
        simp only [Memory.wfFrom, Bool.and_eq_true, decide_eq_true_eq]
        exact ⟨⟨⟨h'.1.1.1, h'.1.1.2⟩, h'.1.2⟩, ih (some k) (fun l hl => by cases hl; omega) h'.2⟩

/-- A write keeps the canonical form. -/
theorem Memory.wf_write (m : List Host.Cell) (a : Nat) (v : Byte) (ha : a < 2 ^ 24) (h : Memory.wf m = true) :
    Memory.wf (Memory.write m a v) = true := wfFrom_write none m a v ha (fun _ hl => by cases hl) h

/-- A byte sent to any address keeps the canonical form, whatever is there. -/
theorem State.wf_ramAfter (s : State) (p : Addr) (v : Byte) (h : Memory.wf s.mem = true) :
    Memory.wf (s.ramAfter p v) = true := by
  unfold State.ramAfter
  split
  · exact Memory.wf_write s.mem p.toNat v p.isLt h
  · exact h

theorem State.wf_setRam (s : State) (p : Addr) (v : Byte) (h : Memory.wf s.mem = true) :
    Memory.wf (s.setRam p v).mem = true := State.wf_ramAfter s p v h

theorem State.wf_writeByte (s : State) (a : Addr) (v : Byte) (h : Memory.wf s.mem = true) :
    Memory.wf (s.writeByte a v).mem = true := State.wf_ramAfter s _ v h

theorem State.wf_writeWord (s : State) (a : Addr) (v : Word) (h : Memory.wf s.mem = true) :
    Memory.wf (s.writeWord a v).mem = true := State.wf_writeByte _ _ _ (State.wf_writeByte s a _ h)

theorem State.wf_reset : Memory.wf State.reset.mem = true := rfl

/-! ## What is at an address -/

@[simp] theorem Platform.kindAt_flat (a : Addr) : Platform.flat.kindAt a = .ram := rfl

theorem State.physical_flat {s : State} (h : s.platform = .flat) (a : Addr) : s.physical a = a := by
  unfold State.physical; rw [h]; rfl

/-- The address on the bus does not depend on what a store changes. -/
@[simp] theorem State.physical_writeByte (s : State) (a b : Addr) (v : Byte) : (s.writeByte a v).physical b = s.physical b := rfl

/-- Memory, RAM or ROM, answers with its byte. -/
theorem State.readByte_memory {s : State} {a : Addr} (h : s.platform.kindAt (s.physical a) ≠ .other) :
    s.readByte a = Memory.read s.mem (s.physical a).toNat := by
  unfold State.readByte
  cases e : s.platform.kindAt (s.physical a) with
  | other => exact absurd e h
  | ram => simp only [e]
  | rom => simp only [e]

/-- Where there is no memory, the platform answers. -/
theorem State.readByte_other {s : State} {a : Addr} (h : s.platform.kindAt (s.physical a) = .other) :
    s.readByte a = Config.openByte s.clock (s.physical a) := by
  unfold State.readByte
  simp only [h]

theorem State.readByte_flat {s : State} (h : s.platform = .flat) (a : Addr) : s.readByte a = Memory.read s.mem a.toNat := by
  have := State.readByte_memory (s := s) (a := a) (by rw [h]; exact fun e => by cases e)
  rwa [State.physical_flat h] at this

/-! ## Bytes and words of the state -/

/-- A byte stored in RAM reads back. -/
theorem State.readByte_writeByte_same (s : State) (a : Addr) (v : Byte) (h : Memory.wf s.mem = true)
    (hr : s.platform.kindAt (s.physical a) = .ram) : (s.writeByte a v).readByte a = v := by
  rw [State.readByte_memory (s := s.writeByte a v) (by rw [State.writeByte_platform, State.physical_writeByte, hr]; decide)]
  simp only [State.writeByte_mem, State.physical_writeByte, State.ramAfter, hr, if_true]
  exact Memory.read_write_same s.mem _ v h

/-- An address that selects another byte reads as before a store. -/
theorem State.readByte_writeByte_other (s : State) (a b : Addr) (v : Byte) (h : s.physical b ≠ s.physical a) :
    (s.writeByte a v).readByte b = s.readByte b := by
  unfold State.readByte
  simp only [State.physical_writeByte, State.writeByte_platform, State.writeByte_mem, State.writeByte_clock, State.ramAfter]
  split
  · rfl
  · split
    · exact Memory.read_write_other s.mem _ _ v fun e => h (BitVec.eq_of_toNat_eq e)
    · rfl

theorem State.addr_ne_next (a : Addr) : a ≠ a + 1 := by bv_omega

/-- A written word's low byte reads back. -/
theorem State.readByte_writeWord_low (s : State) (a : Addr) (v : Word) (h : Memory.wf s.mem = true) (hp : s.platform = .flat) :
    (s.writeWord a v).readByte a = v.extractLsb' 0 8 := by
  unfold State.writeWord
  rw [State.readByte_writeByte_other _ _ _ _ (by
    rw [State.physical_flat (by exact hp), State.physical_flat (by exact hp)]; exact State.addr_ne_next a)]
  exact State.readByte_writeByte_same s a _ h (by rw [hp]; rfl)

/-- A written word's high byte reads back. -/
theorem State.readByte_writeWord_high (s : State) (a : Addr) (v : Word) (h : Memory.wf s.mem = true) (hp : s.platform = .flat) :
    (s.writeWord a v).readByte (a + 1) = v.extractLsb' 8 8 :=
  State.readByte_writeByte_same _ _ _ (State.wf_writeByte s a _ h) (by rw [State.writeByte_platform, hp]; rfl)

/-- A byte outside a written word reads as before. -/
theorem State.readByte_writeWord_other (s : State) (a b : Addr) (v : Word) (h : s.physical b ≠ s.physical a)
    (h' : s.physical b ≠ s.physical (a + 1)) : (s.writeWord a v).readByte b = s.readByte b := by
  unfold State.writeWord
  exact (State.readByte_writeByte_other (s.writeByte a _) (a + 1) b _ h').trans (State.readByte_writeByte_other s a b _ h)

/-- A written word reads back. -/
theorem State.readWord_writeWord_same (s : State) (a : Addr) (v : Word) (h : Memory.wf s.mem = true) (hp : s.platform = .flat) :
    (s.writeWord a v).readWord a = v := by
  unfold State.readWord
  rw [State.readByte_writeWord_low s a v h hp, State.readByte_writeWord_high s a v h hp]
  ext i hi
  simp only [BitVec.getElem_append, BitVec.getElem_extractLsb']
  split
  · simp [BitVec.getLsbD_eq_getElem hi]
  · rename_i hlt
    have : 8 + (i - 8) = i := by omega
    rw [this, BitVec.getLsbD_eq_getElem hi]

end Sys2Proof.Machine
end

