-- ==== Sys2Proof/Laws/Ops.lean ====
section
/-! SUPPORT. What each shared operation can do, said once: registers and flags after a write, checked references, the stack,
ports, places, selectors, the delivery of an exception in Real Address Mode, events, and FPREM of invalid operands. -/

namespace Sys2Proof.Machine

/-! ## Registers -/

@[simp] theorem loByte_mkWord (hi lo : Byte) : loByte (mkWord hi lo) = lo := by
  apply BitVec.eq_of_toNat_eq
  simp only [loByte, mkWord, BitVec.extractLsb'_toNat, BitVec.toNat_append, Nat.shiftRight_zero]
  have h1 := hi.isLt
  have h2 := lo.isLt
  rw [← Nat.shiftLeft_add_eq_or_of_lt h2]
  simp only [Nat.shiftLeft_eq]; omega

@[simp] theorem hiByte_mkWord (hi lo : Byte) : hiByte (mkWord hi lo) = hi := by
  apply BitVec.eq_of_toNat_eq
  simp only [hiByte, mkWord, BitVec.extractLsb'_toNat, BitVec.toNat_append]
  have h1 := hi.isLt
  have h2 := lo.isLt
  rw [← Nat.shiftLeft_add_eq_or_of_lt h2]
  simp only [Nat.shiftLeft_eq, Nat.shiftRight_eq_div_pow]; omega

@[simp] theorem State.reg16_setReg16_same (s : State) (r : Reg16) (v : Word) : (s.setReg16 r v).reg16 r = v := by
  cases r <;> rfl

theorem State.reg16_setReg16_other (s : State) (r q : Reg16) (v : Word) (h : q ≠ r) :
    (s.setReg16 r v).reg16 q = s.reg16 q := by
  cases r <;> cases q <;> first | rfl | exact absurd rfl h

@[simp] theorem State.reg8_setReg8_same (s : State) (r : Reg8) (v : Byte) : (s.setReg8 r v).reg8 r = v := by
  cases r <;> first | exact loByte_mkWord _ _ | exact hiByte_mkWord _ _

theorem State.reg8_setReg8_other (s : State) (r q : Reg8) (v : Byte) (h : q ≠ r) : (s.setReg8 r v).reg8 q = s.reg8 q := by
  cases r <;> cases q <;>
    first | rfl | exact absurd rfl h | exact loByte_mkWord _ _ | exact hiByte_mkWord _ _

theorem State.reg16_setReg8_other (s : State) (r : Reg8) (q : Reg16) (v : Byte) (h : halfOf r ≠ q) :
    (s.setReg8 r v).reg16 q = s.reg16 q := by
  cases r <;> cases q <;> first | rfl | exact absurd rfl h

theorem State.reg8_setReg16_other (s : State) (r : Reg16) (q : Reg8) (v : Word) (h : halfOf q ≠ r) :
    (s.setReg16 r v).reg8 q = s.reg8 q := by
  cases r <;> cases q <;> first | rfl | exact absurd rfl h

/-- A write to a word register changes no register but it and its halves. -/
theorem sameRegs_setReg16 (s : State) (r : Reg16) (v : Word) : SameRegs s (s.setReg16 r v) [.reg16 r] :=
  ⟨fun q h => State.reg16_setReg16_other s r q v fun e => by
      have := h _ (List.mem_singleton.2 rfl)
      simp only [Loc.hits16, beq_eq_false_iff_ne] at this
      exact this e.symm,
    fun q h => State.reg8_setReg16_other s r q v fun e => by
      have := h _ (List.mem_singleton.2 rfl)
      simp only [Loc.hits8, beq_eq_false_iff_ne] at this
      exact this e⟩

/-- A write to a byte register changes no register but it and the word it is half of. -/
theorem sameRegs_setReg8 (s : State) (r : Reg8) (v : Byte) : SameRegs s (s.setReg8 r v) [.reg8 r] :=
  ⟨fun q h => State.reg16_setReg8_other s r q v fun e => by
      have := h _ (List.mem_singleton.2 rfl)
      simp only [Loc.hits16, beq_eq_false_iff_ne] at this
      exact this e,
    fun q h => State.reg8_setReg8_other s r q v fun e => by
      have := h _ (List.mem_singleton.2 rfl)
      simp only [Loc.hits8, beq_eq_false_iff_ne] at this
      exact this e.symm⟩

@[simp] theorem State.seg_setSeg_same (s : State) (r : Sreg) (v : SegReg) : (s.setSeg r v).seg r = v := by cases r <;> rfl

theorem State.seg_setSeg_other (s : State) (r q : Sreg) (v : SegReg) (h : q ≠ r) : (s.setSeg r v).seg q = s.seg q := by
  cases r <;> cases q <;> first | rfl | exact absurd rfl h

/-! ## Flags -/

theorem getLsbD_putBit_same {n : Nat} (w : BitVec n) (i : Nat) (b : Bool) (h : i < n) : (putBit w i b).getLsbD i = b := by
  have h1 : (1#n).getLsbD 0 = true := by
    rw [BitVec.getLsbD_one]; simp only [decide_true, Bool.and_true, decide_eq_true_eq]; omega
  unfold putBit
  cases b <;>
    simp only [if_true, if_false, Bool.false_eq_true, BitVec.getLsbD_or, BitVec.getLsbD_and, BitVec.getLsbD_not, BitVec.getLsbD_shiftLeft, h,
      Nat.lt_irrefl, decide_true, decide_false, Nat.sub_self, h1, Bool.not_false, Bool.and_true, Bool.or_true, Bool.not_true,
      Bool.and_false]

theorem getLsbD_putBit_other {n : Nat} (w : BitVec n) (i j : Nat) (b : Bool) (h : j ≠ i) :
    (putBit w i b).getLsbD j = w.getLsbD j := by
  have h1 : (1#n <<< i).getLsbD j = false := by
    rw [BitVec.getLsbD_shiftLeft, BitVec.getLsbD_one]
    by_cases hj : j < i
    · simp only [hj, decide_true, Bool.not_true, Bool.and_false, Bool.false_and]
    · have : j - i ≠ 0 := by omega
      simp only [this, decide_false, Bool.and_false]
  unfold putBit
  cases b
  · simp only [Bool.false_eq_true, if_false, BitVec.getLsbD_and, BitVec.getLsbD_not, h1, Bool.not_false, Bool.and_true]
    by_cases hj : j < n
    · simp only [hj, decide_true, Bool.and_true]
    · rw [BitVec.getLsbD_of_ge w j (by omega), Bool.false_and]
  · simp only [if_true, BitVec.getLsbD_or, h1, Bool.or_false]

theorem Flag.pos_injective (f g : Flag) (h : f.pos = g.pos) : f = g := by
  cases f <;> cases g <;> first | rfl | exact absurd h (by decide)

theorem Flag.pos_lt (f : Flag) : f.pos < 16 := by cases f <;> decide

@[simp] theorem flagOf_putFlag_same (w : Word) (f : Flag) (b : Bool) : flagOf (putFlag w f b) f = b :=
  getLsbD_putBit_same w f.pos b f.pos_lt

theorem flagOf_putFlag_other (w : Word) (f g : Flag) (b : Bool) (h : g ≠ f) : flagOf (putFlag w f b) g = flagOf w g :=
  getLsbD_putBit_other w f.pos g.pos b fun e => h (Flag.pos_injective g f e)

@[simp] theorem State.flag_setFlag_same (s : State) (f : Flag) (b : Bool) : (s.setFlag f b).flag f = b :=
  flagOf_putFlag_same s.flags f b

theorem State.flag_setFlag_other (s : State) (f g : Flag) (b : Bool) (h : g ≠ f) : (s.setFlag f b).flag g = s.flag g :=
  flagOf_putFlag_other s.flags f g b h

theorem State.flag_congr {s t : State} (h : t.flags = s.flags) (f : Flag) : t.flag f = s.flag f := by
  unfold State.flag; rw [h]

/-! ## Checked references -/

@[simp] theorem load8_run (S : Sreg) (off : Nat) (s : State) : load8 S off s =
    match s.checkRead S off 1 with
    | .error x => .error (.exn x false) s
    | .ok () => .ok (s.readByte ((s.seg S).addr off)) s := by
  unfold load8 State.load8
  cases s.checkRead S off 1 <;> rfl

@[simp] theorem load16_run (S : Sreg) (off : Nat) (s : State) : load16 S off s =
    match s.checkRead S off 2 with
    | .error x => .error (.exn x false) s
    | .ok () => .ok (s.readWord ((s.seg S).addr off)) s := by
  unfold load16 State.load16
  cases s.checkRead S off 2 <;> rfl

@[simp] theorem store8_run (S : Sreg) (off : Nat) (v : Byte) (s : State) : store8 S off v s =
    match s.checkWrite S off 1 with
    | .error x => .error (.exn x false) s
    | .ok () => .ok () (s.writeByte ((s.seg S).addr off) v) := by
  unfold store8 State.store8
  cases s.checkWrite S off 1 <;> rfl

@[simp] theorem store16_run (S : Sreg) (off : Nat) (v : Word) (s : State) : store16 S off v s =
    match s.checkWrite S off 2 with
    | .error x => .error (.exn x false) s
    | .ok () => .ok () (s.writeWord ((s.seg S).addr off) v) := by
  unfold store16 State.store16
  cases s.checkWrite S off 2 <;> rfl

/-- An operand that may be read passes the tests. -/
theorem State.checkRead_of_mayRead {s : State} {S : Sreg} {off n : Nat} (h : s.mayRead S off n = true) :
    s.checkRead S off n = .ok () := by
  unfold State.mayRead at h
  cases e : s.checkRead S off n with
  | ok u => rfl
  | error x => rw [e] at h; exact absurd h Bool.false_ne_true

/-- An operand that may be written passes the tests. -/
theorem State.checkWrite_of_mayWrite {s : State} {S : Sreg} {off n : Nat} (h : s.mayWrite S off n = true) :
    s.checkWrite S off n = .ok () := by
  unfold State.mayWrite at h
  cases e : s.checkWrite S off n with
  | ok u => rfl
  | error x => rw [e] at h; exact absurd h Bool.false_ne_true

/-- The exception of a failed read is #GP(0), #SS(0) or interrupt 13. -/
theorem State.checkRead_error {s : State} {S : Sreg} {off n : Nat} {x : Exn} (h : s.checkRead S off n = .error x) :
    x = .gp 0 ∨ x = limitExn s.pe S := by
  unfold State.checkRead State.checkLimit at h
  split at h
  · next h' =>
    cases h
    split at h'
    · exact .inl (by injection h' with e; exact e.symm)
    · split at h'
      · exact absurd h' (by intro e; cases e)
      · exact .inr (by injection h' with e; exact e.symm)
  · split at h
    · exact .inl (by injection h with e; exact e.symm)
    · exact absurd h (by intro e; cases e)

/-- The tests of a read depend on the mode and the segment register alone. -/
theorem State.checkRead_congr {s t : State} {S : Sreg} (off n : Nat) (hp : t.pe = s.pe) (hs : t.seg S = s.seg S) :
    t.checkRead S off n = s.checkRead S off n := by
  unfold State.checkRead State.checkLimit; rw [hp, hs]

/-- The tests of a write depend on the mode and the segment register alone. -/
theorem State.checkWrite_congr {s t : State} {S : Sreg} (off n : Nat) (hp : t.pe = s.pe) (hs : t.seg S = s.seg S) :
    t.checkWrite S off n = s.checkWrite S off n := by
  unfold State.checkWrite State.checkLimit; rw [hp, hs]

@[simp] theorem testRead_run (S : Sreg) (off n : Nat) (s : State) : testRead S off n s =
    match s.checkRead S off n with
    | .error x => .error (.exn x false) s
    | .ok () => .ok () s := rfl

@[simp] theorem testWrite_run (S : Sreg) (off n : Nat) (s : State) : testWrite S off n s =
    match s.checkWrite S off n with
    | .error x => .error (.exn x false) s
    | .ok () => .ok () s := rfl

/-! ## The stack -/

/-- A push with room: SP goes down by 2, the word lies at SS:SP. -/
theorem push_run {s : State} (v : Word) (h : s.stackRoom 1 = true) : push v s = .ok () (s.pushWord v) := by
  unfold State.stackRoom at h
  have h2 : (s.pe && !s.ss.valid) = false := by
    cases hp : s.pe <;> cases hv : s.ss.valid <;> simp only [hp, hv, Bool.not_true, Bool.not_false, Bool.or_false,
      Bool.false_and, Bool.or_true, Bool.true_and, Bool.false_eq_true] at h ⊢
  have h3 : s.ss.pushRoom s.pe s.sp 1 = true := by
    rw [Bool.and_eq_true] at h; exact h.2
  unfold push
  rw [bind_run]
  unfold pushRoom
  rw [h2, h3]
  rfl

/-- Room for `k` words passes the test. -/
theorem pushRoom_run {s : State} {k : Nat} (h : s.stackRoom k = true) : pushRoom k s = .ok () s := by
  unfold State.stackRoom at h
  have h2 : (s.pe && !s.ss.valid) = false := by
    cases hp : s.pe <;> cases hv : s.ss.valid <;> simp only [hp, hv, Bool.not_true, Bool.not_false, Bool.or_false,
      Bool.false_and, Bool.or_true, Bool.true_and, Bool.false_eq_true] at h ⊢
  have h3 : s.ss.pushRoom s.pe s.sp k = true := by
    rw [Bool.and_eq_true] at h; exact h.2
  unfold pushRoom
  rw [h2, h3]
  rfl

/-- A pop that may be read: the word at SS:SP, SP up by 2, nothing else. -/
theorem pop_run {s : State} (h : s.mayRead .ss s.sp.toNat 2 = true) :
    pop s = .ok (s.readWord (s.ss.addr s.sp.toNat)) { s with sp := s.sp + 2 } := by
  unfold pop
  rw [bind_run, look_run]
  simp only [bind_run, load16_run, State.checkRead_of_mayRead h]
  rfl

@[simp] theorem popRoom_run (n : Nat) (s : State) : popRoom n s =
    match s.checkRead .ss s.sp.toNat n with
    | .error x => .error (.exn x false) s
    | .ok () => .ok () s := rfl

@[simp] theorem stackWord_run (k : Nat) (s : State) : stackWord k s =
    match s.checkRead .ss (s.sp.toNat + k) 2 with
    | .error x => .error (.exn x false) s
    | .ok () => .ok (s.readWord (s.ss.addr (s.sp.toNat + k))) s := by
  unfold stackWord
  rw [bind_run, look_run]
  exact load16_run _ _ _

@[simp] theorem frameWord_run (k : Nat) (s : State) : frameWord k s =
    match s.checkRead .ss (s.sp + BitVec.ofNat 16 k).toNat 2 with
    | .error x => .error (.exn x false) s
    | .ok () => .ok (s.readWord (s.ss.addr (s.sp + BitVec.ofNat 16 k).toNat)) s := by
  unfold frameWord
  rw [bind_run, look_run]
  exact load16_run _ _ _

@[simp] theorem pushAll_run (l : List Word) (s : State) : pushAll l s = .ok () (l.foldl State.pushWord s) := by
  induction l generalizing s with
  | nil => rfl
  | cons v vs ih =>
    simp only [pushAll, bind_run, update_run, ih, List.foldl_cons]

/-- Pushes that do not go through 0000H are those of `pushAll`. -/
@[simp] theorem pushEach_run (l : List Word) (s : State) : pushEach false l s = .ok () (l.foldl State.pushWord s) := by
  induction l generalizing s with
  | nil => rfl
  | cons v vs ih =>
    simp only [pushEach, bind_run, look_run, update_run, Bool.false_and, Bool.false_eq_true, if_false, ih, List.foldl_cons]

/-- A push at SP = 0000H that may not wrap raises #SS(0), what is done staying. -/
theorem pushEach_stops {s : State} (v : Word) (l : List Word) (h : s.sp = 0) :
    pushEach true (v :: l) s = raiseSpoiled (.ss 0) s := by
  simp only [pushEach, bind_run, look_run, h, Bool.true_and, beq_self_eq_true, if_true]

@[simp] theorem roomOn_run (r : SegReg) (sp : Word) (k : Nat) (s : State) :
    roomOn r sp k s = if r.pushRoom true sp k then .ok () s else .error (.exn (.ss 0) false) s := require_run _ _ _

/-! ## Writes of other bus masters -/

/-- They keep the canonical form of memory. -/
theorem State.wf_busWritten (ws : List (Addr × Byte)) (s : State) (h : Memory.wf s.mem = true) :
    Memory.wf (s.busWritten ws).mem = true := by
  induction ws generalizing s with
  | nil => exact h
  | cons w t ih => exact ih _ (State.wf_setRam s w.1 w.2 h)

/-- So does the sampling of the inputs. -/
theorem State.wf_sampled {s : State} (h : Memory.wf s.mem = true) : Memory.wf s.sampled.mem = true := by
  unfold State.sampled
  split
  · exact h
  · exact State.wf_busWritten _ _ h

/-! ## Ports and privilege -/

@[simp] theorem portIn_run (p : Word) (s : State) : portIn p s =
    if s.npxPresent && npxPort p then .error (.refused .npxPort) s
    else .ok (Config.freeByte s.free) { s.drawn with ioTrace := .input p (Config.freeByte s.free) :: s.ioTrace } := by
  unfold portIn
  rw [bind_run]
  unfold checkPort
  cases s.npxPresent && npxPort p <;> rfl

@[simp] theorem portOut_run (p : Word) (v : Byte) (s : State) : portOut p v s =
    if s.npxPresent && npxPort p then .error (.refused .npxPort) s
    else .ok () { s with ioTrace := .output p v :: s.ioTrace } := by
  unfold portOut
  rw [bind_run]
  unfold checkPort
  cases s.npxPresent && npxPort p <;> rfl

@[simp] theorem requireIopl_run (s : State) : requireIopl s =
    if !s.pe || decide (s.cpl ≤ s.iopl) then .ok () s else .error (.exn (.gp 0) false) s := by
  unfold requireIopl
  rw [bind_run, look_run]
  exact require_run _ _ _

@[simp] theorem requireCpl0_run (s : State) : requireCpl0 s =
    if decide (s.cpl = 0) then .ok () s else .error (.exn (.gp 0) false) s := by
  unfold requireCpl0
  rw [bind_run, look_run]
  exact require_run _ _ _

@[simp] theorem requireProtected_run (s : State) : requireProtected s =
    if s.pe then .ok () s else .error (.exn .ud false) s := by
  unfold requireProtected
  rw [bind_run, look_run]
  exact require_run _ _ _

/-! ## Places and operations -/

@[simp] theorem Place.reg8_read_run (r : Reg8) (s : State) : (Place.reg8 r).read s = .ok (s.reg8 r) s := rfl

@[simp] theorem Place.reg8_write_run (r : Reg8) (v : Byte) (s : State) : (Place.reg8 r).write v s = .ok () (s.setReg8 r v) := rfl

@[simp] theorem Place.reg16_read_run (r : Reg16) (s : State) : (Place.reg16 r).read s = .ok (s.reg16 r) s := rfl

@[simp] theorem Place.reg16_write_run (r : Reg16) (v : Word) (s : State) :
    (Place.reg16 r).write v s = .ok () (s.setReg16 r v) := rfl

/-- Reading a byte operand that may be read gives what its location holds, and changes nothing. -/
theorem placeEb_read_run {s : State} {e : Eb} (h : s.readable e 1 = true) :
    ∃ v : Byte, (placeEb e).read s = .ok v s ∧ v.toNat = s.get (s.locEb e) := by
  cases e with
  | reg r => exact ⟨_, rfl, rfl⟩
  | mem m =>
    refine ⟨s.readByte ((s.seg (s.memSeg m)).addr (s.ea m).toNat), ?_, rfl⟩
    show load8 _ _ s = _
    rw [load8_run, State.checkRead_of_mayRead h]

/-- Reading a word operand that may be read gives what its location holds, and changes nothing. -/
theorem placeEw_read_run {s : State} {e : Ew} (h : s.readable e 2 = true) :
    ∃ v : Word, (placeEw e).read s = .ok v s ∧ v.toNat = s.get (s.locEw e) := by
  cases e with
  | reg r => exact ⟨_, rfl, rfl⟩
  | mem m =>
    refine ⟨s.readWord ((s.seg (s.memSeg m)).addr (s.ea m).toNat), ?_, ?_⟩
    · show load16 _ _ s = _
      rw [load16_run, State.checkRead_of_mayRead h]
    · show (_ ++ _ : Word).toNat = _
      rw [BitVec.toNat_append, ← Nat.shiftLeft_add_eq_or_of_lt (BitVec.isLt _), Nat.shiftLeft_eq]
      show _ = BitVec.toNat _ + 256 * BitVec.toNat _
      omega

@[simp] theorem modify_run {n : Nat} (op : (k : Nat) → BitVec k → BitVec k → Exec (BitVec k)) (p : Place n) (b : BitVec n)
    (s : State) : modify op p b s =
      match p.read s with
      | .ok a t => (match op n a b t with | .ok v u => p.write v u | .error e u => .error e u)
      | .error e t => .error e t := by
  unfold modify
  rw [bind_run]
  cases p.read s with
  | error e t => rfl
  | ok a t =>
    show (op n a b >>= fun v => p.write v) t =
      match op n a b t with | .ok v u => p.write v u | .error e u => .error e u
    rw [bind_run]
    cases op n a b t <;> rfl

@[simp] theorem compare_run {n : Nat} (op : (k : Nat) → BitVec k → BitVec k → Exec (BitVec k)) (p : Place n) (b : BitVec n)
    (s : State) : compare op p b s =
      match p.read s with
      | .ok a t => (match op n a b t with | .ok _ u => .ok () u | .error e u => .error e u)
      | .error e t => .error e t := by
  unfold compare
  rw [bind_run]
  cases p.read s with
  | error e t => rfl
  | ok a t =>
    show (op n a b >>= fun _ => pure ()) t =
      match op n a b t with | .ok _ u => .ok () u | .error e u => .error e u
    rw [bind_run]
    cases op n a b t <;> rfl

@[simp] theorem addOp_run (c : Bool) (n : Nat) (a b : BitVec n) (s : State) :
    addOp c n a b s = .ok (addValue a b c) { s with flags := addFlags s.flags a b c } := rfl

@[simp] theorem subOp_run (c : Bool) (n : Nat) (a b : BitVec n) (s : State) :
    subOp c n a b s = .ok (subValue a b c) { s with flags := subFlags s.flags a b c } := rfl

/-- A logical operation sets the result flags, clears CF and OF, and draws AF. -/
@[simp] theorem logicOp_run (op : (k : Nat) → BitVec k → BitVec k → BitVec k) (n : Nat) (a b : BitVec n) (s : State) :
    logicOp op n a b s =
      .ok (op n a b)
        { s with flags := putFlag (logicFlags s.flags (op n a b)) .af (Config.freeBit s.free), free := s.free + 1 } := rfl

/-- Undefined flags are drawn one by one; nothing but FLAGS and the counter of draws changes. -/
theorem undefineFlags_run (fs : List Flag) (s : State) :
    ∃ w : Word, undefineFlags fs s = .ok () { s with flags := w, free := s.free + fs.length } ∧
      ∀ g : Flag, g ∉ fs → flagOf w g = s.flag g := by
  induction fs generalizing s with
  | nil => exact ⟨s.flags, rfl, fun g _ => rfl⟩
  | cons f fs ih =>
    obtain ⟨w, h1, h2⟩ := ih (s.drawn.setFlag f (Config.freeBit s.free))
    refine ⟨w, ?_, ?_⟩
    · unfold undefineFlags
      rw [bind_run, undefineFlag_run]
      show undefineFlags fs _ = _
      rw [h1]
      show EStateM.Result.ok () { s with flags := w, free := s.free + 1 + fs.length } = _
      rw [List.length_cons, Nat.add_assoc, Nat.add_comm 1]
    · intro g hg
      rw [List.mem_cons, not_or] at hg
      rw [h2 g hg.2, State.flag_setFlag_other _ _ _ _ hg.1]
      rfl

/-! ## Selectors and segments -/

@[simp] theorem fetchDesc_run (sel : Word) (x : Exn) (s : State) : fetchDesc sel x s =
    match s.descriptor sel with
    | some d => .ok d s
    | none => .error (.exn x false) s := by
  unfold fetchDesc
  rw [bind_run, look_run]
  show (match s.descriptor sel with | some d => pure d | none => raise x : Exec Desc) s = _
  cases s.descriptor sel <;> rfl

@[simp] theorem fetchDescKept_run (sel : Word) (x : Exn) (s : State) : fetchDescKept sel x s =
    match s.descriptor sel with
    | some d => .ok d s
    | none => .error (.exn x true) s := by
  unfold fetchDescKept
  rw [bind_run, look_run]
  show (match s.descriptor sel with | some d => pure d | none => raiseKept x : Exec Desc) s = _
  cases s.descriptor sel <;> rfl

@[simp] theorem loadSeg_run (r : Sreg) (sel : Word) (d : Desc) (s : State) :
    loadSeg r sel d s = .ok () ((s.setSeg r (d.load sel)).setAccessed d) := rfl

@[simp] theorem loadCs_run (sel : Word) (d : Desc) (p : Nat) (off : Word) (s : State) :
    loadCs sel d p off s = .ok () (((s.setSeg .cs (d.load (withRpl sel p))).setAccessed d).jumpTo off) := rfl

@[simp] theorem codeLimit_run (d : Desc) (off : Word) (s : State) : codeLimit d off s =
    if decide (off.toNat ≤ d.limit.toNat) then .ok () s else .error (.exn (.gp 0) false) s := require_run _ _ _

@[simp] theorem farReal_run (sel off : Word) (s : State) : farReal sel off s = .ok () ((s.loadSegReal .cs sel).jumpTo off) := rfl

/-- DS or ES from a selector that the rules of R171 admit. -/
theorem loadDataSeg_run {s : State} {sel : Word} {d : Desc} (r : Sreg) (h : isNull sel = false)
    (hd : s.descriptor sel = some d) (hr : d.readable = true) (hp : d.present = true)
    (hl : dataPrivilege d s.cpl sel = true) :
    loadDataSeg r sel s = .ok () ((s.setSeg r (d.load sel)).setAccessed d) := by
  unfold loadDataSeg
  rw [if_neg (by rw [h]; decide)]
  simp only [bind_run, fetchDesc_run, hd, require_run, hr, look_run, hl, hp, if_true, loadSeg_run]

/-- SS from a selector that the rules of R172 admit. -/
theorem loadStackSeg_run {s : State} {sel : Word} {d : Desc} (h : isNull sel = false) (hd : s.descriptor sel = some d)
    (hw : d.writable = true) (hp : d.present = true) (hr : rpl sel = s.cpl) (hl : d.dpl = s.cpl) :
    loadStackSeg sel s = .ok () ((s.setSeg .ss (d.load sel)).setAccessed d) := by
  unfold loadStackSeg
  simp only [bind_run, fetchDesc_run, hd, require_run, hw, look_run, hr, hl, hp, h, Bool.not_false, decide_true, if_true, loadSeg_run]

/-- The tests of PUSHA in Protected Mode: the words it pushes and the last of the eight lie in a valid stack segment, and an odd SP
does not wrap; else it stops with nothing changed. -/
theorem pushaRoom_protected {s : State} (h : s.pe = true) : pushaRoom s =
    if s.ss.valid then
      if !oddWrap s.sp true && s.ss.pushRoom true s.sp (pushedWords s.sp) && s.ss.inLimit true (s.sp - 16).toNat 2 then .ok () s
      else .error (.exn (.ss 0) false) s
    else .error (.exn (.gp 0) false) s := by
  unfold pushaRoom
  simp only [bind_run, look_run, id_eq, h, if_true, require_run]
  cases s.ss.valid <;> rfl

/-- The tests of PUSHA in Real Address Mode: an odd SP up to 15 means shutdown or interrupt 13. -/
theorem pushaRoom_real {s : State} (h : s.pe = false) : pushaRoom s =
    if oddWrap s.sp true then if s.sp.toNat ≤ 5 then .error .shutdown s else .error (.exn ⟨13, none⟩ false) s
    else .ok () s := by
  unfold pushaRoom
  simp only [bind_run, look_run, id_eq, h, Bool.false_eq_true, if_false]
  cases oddWrap s.sp true
  · rfl
  · simp only [if_true]; split <;> rfl

/-! ## Exceptions -/

/-- What an exception finds when it is raised with nothing changed: the state at the start, and its first byte as return
address. -/
theorem takeException_start (x : Exn) (start reached : State) :
    takeException x false start reached =
      State.deliver { start with free := reached.free, ip := start.istart, ipCarry := false } (x.event start.istart) := rfl

/-- Delivery in Real Address Mode. -/
theorem State.deliver_real {s : State} (e : Event) (h : s.pe = false) : s.deliver e = deliverReal e s := by
  unfold State.deliver; rw [h]; rfl

/-- A vector within the table, with room on the stack, is entered. -/
theorem deliverReal_entered {s : State} {e : Event} (h : s.inRealTable e.vec = true) (hr : s.noRealRoom = false) :
    deliverReal e s = s.drawn.enterReal e.vec e.ret s.flagsImage := by
  unfold deliverReal deliverInTable
  rw [h, hr]; rfl

/-- A vector outside the table becomes interrupt 8. -/
theorem deliverReal_becomes_eight {s : State} {e : Event} (h : s.inRealTable e.vec = false) (h8 : s.inRealTable 8 = true)
    (h1 : e.vec ≠ 8) (h2 : e.vec ≠ 13) (hr : s.noRealRoom = false) :
    deliverReal e s = s.drawn.enterReal 8 (e.failedRet s) s.flagsImage := by
  unfold deliverReal deliverInTable
  rw [h, h8, hr, if_neg (by decide), if_neg fun h' => h'.elim h1 h2, if_neg (by decide)]
  rfl

/-- Vector 8 or 13 outside the table: shutdown at the return address that was being saved. -/
theorem deliverReal_shuts_down {s : State} {e : Event} (h : s.inRealTable e.vec = false) (h8 : e.vec = 8 ∨ e.vec = 13) :
    deliverReal e s = s.shutDown e.ret := by
  unfold deliverReal
  rw [h, if_neg (by decide), if_pos h8]

/-- Another vector outside a table that does not hold entry 8 either: shutdown. -/
theorem deliverReal_shuts_down_at_eight {s : State} {e : Event} (h : s.inRealTable e.vec = false) (h1 : e.vec ≠ 8)
    (h2 : e.vec ≠ 13) (h8 : s.inRealTable 8 = false) : deliverReal e s = s.shutDown (e.failedRet s) := by
  unfold deliverReal
  rw [h, if_neg (by decide), if_neg fun h' => h'.elim h1 h2, if_pos h8]

/-- The fields that an entry in Real Address Mode sets. -/
theorem State.enterReal_fields (s : State) (v : Byte) (ret image : Word) :
    (s.enterReal v ret image).sp = s.sp - 6 ∧ (s.enterReal v ret image).ipCarry = false ∧
    (s.enterReal v ret image).flags = putFlag (putFlag s.flags .ie false) .tf false ∧
    (s.enterReal v ret image).msw = s.msw ∧ (s.enterReal v ret image).ss = s.ss ∧ (s.enterReal v ret image).ds = s.ds ∧
    (s.enterReal v ret image).es = s.es ∧ (s.enterReal v ret image).npx = s.npx ∧ (s.enterReal v ret image).cs.limit = 0xFFFF ∧
    (s.enterReal v ret image).cs.valid = true := by
  unfold State.enterReal
  simp only [State.jumpTo_sp, State.jumpTo_ipCarry, State.jumpTo_flags, State.jumpTo_msw, State.jumpTo_ss, State.jumpTo_ds,
    State.jumpTo_es, State.jumpTo_npx, State.jumpTo_cs, State.loadSegReal, State.setSeg, State.seg, SegReg.loadReal, State.pushWord_sp, State.pushWord_flags,
    State.pushWord_msw, State.pushWord_ss, State.pushWord_ds, State.pushWord_es, State.pushWord_npx, and_true]
  bv_omega

/-! ## Events, and FPREM of invalid operands -/

/-- What the boundary of R935 can do: one of the four events is delivered. -/
theorem State.boundary_cases {s t : State} {i : Inputs} (h : s.boundary i = some t) :
    t = State.deliverExternal { s with stepPending := false } 1 ∨
    t = State.deliverExternal { s with nmiPending := false, nmiInService := true } 2 ∨
    t = State.deliverExternal { s with mpPending := false } 9 ∨ t = s.deliverExternal i.vector := by
  unfold State.boundary at h
  repeat' split at h
  all_goals cases h
  · exact .inl rfl
  · exact .inr (.inl rfl)
  · exact .inr (.inr (.inl rfl))
  · exact .inr (.inr (.inr rfl))

/-- An event inside an instruction is one that the boundary before it, gone on with, recognises (R480, R561). -/
theorem State.eventInside_cases {s t : State} {i : Inputs} (h : s.eventInside i = some t) :
    ∃ (instr : Instr) (u : State), fetchInstr s = .ok instr u ∧ u.looksInside instr = true ∧
      (u.begunAgain instr).boundary i = some t := by
  unfold State.eventInside at h
  split at h
  · next instr u e =>
    split at h
    · next looks => exact ⟨instr, u, e, looks, h⟩
    · cases h
  · cases h

/-- What FPREM leaves of invalid operands, I masked and no denormal dividend: real indefinite or what the other operations leave,
and C2 cleared (R758, R762, R835, log 72). -/
theorem remainder_invalid {a b : Operand} {t : Temp} {s : State} (hd : a.denormal = false) (hm : s.npx.masks .i = true)
    (h : (a.isNan || b.isNan || a.isInf || b.isZero || b.denormal || b.isUnnormal) = true) :
    ∃ (v : Temp) (u : State), remainder a b t s = .ok (some v) u ∧ (v = indefinite ∨ v = invalidResult a b) ∧
      u.npx = { s.npx with status := putBit (putBit s.npx.status 0 true) 10 false } := by
  have hm' : Npx.masks { s.npx with status := putBit s.npx.status 0 true } .i = true := hm
  let u : State := { s with npx := { s.npx with status := putBit s.npx.status 0 true } }
  refine ⟨if Config.freeBit s.free then indefinite else invalidResult a b,
    { u.drawn with npx := { u.npx with status := putBit u.npx.status 10 false } }, ?_, ?_, rfl⟩
  · simp only [remainder, operandTests, signal, NumExn.pos, hd, h, hm', lookNpx_run, updateNpx_run, bind_run, pure_run,
      drawBit_run, remainderInvalid_run, Bool.false_and, Bool.false_eq_true, if_false, if_true]
    rfl
  · split
    · exact .inl rfl
    · exact .inr rfl

end Sys2Proof.Machine
end

