-- ==== Sys2Proof/Laws/PerInstr.lean ====
section
/-! SUPPORT. What holds of every instruction as syntax, one lemma for each constructor. -/

namespace Sys2Proof.Laws

theorem modrm_length (g : BitVec 3) (e : Rm (BitVec 3)) : 1 ≤ (modrm g e).length ∧ (modrm g e).length ≤ 3 := by
  rcases e with r | m
  · simp [modrm]
  · rcases m with w | b | ⟨b, d⟩ | ⟨b, d⟩ <;> simp [modrm, wordBytes]

/-- One to six bytes. -/
def Fits (bs : List Byte) : Prop := 1 ≤ bs.length ∧ bs.length ≤ 6

theorem fits_rm (op : Byte) (g : BitVec 3) (e : Rm (BitVec 3)) : Fits (op :: modrm g e) := by
  have := modrm_length g e
  simp only [Fits, List.length_cons]; omega

theorem fits_rm_byte (op : Byte) (g : BitVec 3) (e : Rm (BitVec 3)) (v : Byte) : Fits (op :: (modrm g e ++ [v])) := by
  have := modrm_length g e
  simp only [Fits, List.length_cons, List.length_append, List.length_nil]; omega

theorem fits_rm_word (op : Byte) (g : BitVec 3) (e : Rm (BitVec 3)) (v : Word) :
    Fits (op :: (modrm g e ++ wordBytes v)) := by
  have := modrm_length g e
  simp only [Fits, List.length_cons, List.length_append, wordBytes, List.length_nil]; omega

theorem fits_two_rm (op op' : Byte) (g : BitVec 3) (e : Rm (BitVec 3)) : Fits (op :: op' :: modrm g e) := by
  have := modrm_length g e
  simp only [Fits, List.length_cons]; omega

theorem fits_fixed (bs : List Byte) (h : (Nat.ble 1 bs.length && Nat.ble bs.length 6) = true) : Fits bs := by
  rw [Bool.and_eq_true] at h
  exact ⟨Nat.le_of_ble_eq_true h.1, Nat.le_of_ble_eq_true h.2⟩

theorem fits_alu (n : BitVec 3) : ∀ f : AluForm, Fits (encodeAlu n f)
  | .ebRb _ _ => fits_rm _ _ _
  | .ewRw _ _ => fits_rm _ _ _
  | .rbEb _ _ => fits_rm _ _ _
  | .rwEw _ _ => fits_rm _ _ _
  | .alDb _ => fits_fixed _ rfl
  | .axDw _ => fits_fixed _ rfl
  | .ebDb _ _ => fits_rm_byte _ _ _ _
  | .ewDw _ _ => fits_rm_word _ _ _ _
  | .ewDb _ _ => fits_rm_byte _ _ _ _

theorem fits_mov : ∀ f : MovForm, Fits (encodeMov f)
  | .ebRb _ _ => fits_rm _ _ _
  | .ewRw _ _ => fits_rm _ _ _
  | .rbEb _ _ => fits_rm _ _ _
  | .rwEw _ _ => fits_rm _ _ _
  | .ewSreg _ _ => fits_rm _ _ _
  | .sregEw _ _ => fits_rm _ _ _
  | .alXb _ => fits_fixed _ rfl
  | .axXw _ => fits_fixed _ rfl
  | .xbAl _ => fits_fixed _ rfl
  | .xwAx _ => fits_fixed _ rfl
  | .rbDb _ _ => fits_fixed _ rfl
  | .rwDw _ _ => fits_fixed _ rfl
  | .ebDb _ _ => fits_rm_byte _ _ _ _
  | .ewDw _ _ => fits_rm_word _ _ _ _

theorem fits_push : ∀ f : PushForm, Fits (encodePush f)
  | .rw _ => fits_fixed _ rfl
  | .sreg s => by cases s <;> exact fits_fixed _ rfl
  | .mw _ => fits_rm _ _ _
  | .dw _ => fits_fixed _ rfl
  | .db _ => fits_fixed _ rfl

theorem fits_pop : ∀ f : PopForm, Fits (encodePop f)
  | .rw _ => fits_fixed _ rfl
  | .sreg s => by cases s <;> exact fits_fixed _ rfl
  | .mw _ => fits_rm _ _ _

theorem fits_port (bi wi bd wd : Byte) (f : PortForm) : Fits (encodePort bi wi bd wd f) := by
  cases f <;> exact fits_fixed _ rfl

theorem fits_inc (n : BitVec 3) (op : Byte) : ∀ f : IncForm, Fits (encodeInc n op f)
  | .eb _ => fits_rm _ _ _
  | .ew _ => fits_rm _ _ _
  | .rw _ => fits_fixed _ rfl

theorem fits_unary (n : BitVec 3) : ∀ f : UnaryForm, Fits (encodeUnary n f)
  | .eb _ => fits_rm _ _ _
  | .ew _ => fits_rm _ _ _

theorem fits_shift (n : BitVec 3) : ∀ f : ShiftForm, Fits (encodeShift n f)
  | .eb _ .one => fits_rm _ _ _
  | .eb _ .cl => fits_rm _ _ _
  | .eb _ (.imm _) => fits_rm_byte _ _ _ _
  | .ew _ .one => fits_rm _ _ _
  | .ew _ .cl => fits_rm _ _ _
  | .ew _ (.imm _) => fits_rm_byte _ _ _ _

theorem fits_arith (n n' : BitVec 3) (f : ArithForm) : Fits (encodeArith n n' f) := by
  cases f <;> exact fits_rm _ _ _

theorem fits_int (n : BitVec 3) (f : IntForm) : Fits (encodeInt n f) := by cases f <;> exact fits_rm _ _ _

theorem fits_compare (n : BitVec 3) (f : RealForm) : Fits (encodeCompare n f) := by cases f <;> exact fits_rm _ _ _

namespace EncodedLength

/-- An instruction without its prefixes has one to six bytes (30_encoding.md R250, R251). -/
def Statement (i : Instr) : Prop := Fits (encode i)

theorem add (f : AluForm) : Statement (.add f) := fits_alu _ f

theorem or (f : AluForm) : Statement (.or f) := fits_alu _ f

theorem adc (f : AluForm) : Statement (.adc f) := fits_alu _ f

theorem sbb (f : AluForm) : Statement (.sbb f) := fits_alu _ f

theorem and (f : AluForm) : Statement (.and f) := fits_alu _ f

theorem sub (f : AluForm) : Statement (.sub f) := fits_alu _ f

theorem xor (f : AluForm) : Statement (.xor f) := fits_alu _ f

theorem cmp (f : AluForm) : Statement (.cmp f) := fits_alu _ f

theorem mov (f : MovForm) : Statement (.mov f) := fits_mov f

theorem push (f : PushForm) : Statement (.push f) := fits_push f

theorem pop (f : PopForm) : Statement (.pop f) := fits_pop f

theorem pusha : Statement .pusha := fits_fixed _ rfl

theorem popa : Statement .popa := fits_fixed _ rfl

theorem pushf : Statement .pushf := fits_fixed _ rfl

theorem popf : Statement .popf := fits_fixed _ rfl

theorem xchg : ∀ f : XchgForm, Statement (.xchg f)
  | .ebRb _ _ => fits_rm _ _ _
  | .ewRw _ _ => fits_rm _ _ _
  | .axRw _ => fits_fixed _ rfl

theorem xlat : Statement .xlat := fits_fixed _ rfl

theorem inp (f : PortForm) : Statement (.inp f) := fits_port _ _ _ _ f

theorem outp (f : PortForm) : Statement (.outp f) := fits_port _ _ _ _ f

theorem lea (r : Reg16) (m : Mem) : Statement (.lea r m) := fits_rm _ _ _

theorem lds (r : Reg16) (m : Mem) : Statement (.lds r m) := fits_rm _ _ _

theorem les (r : Reg16) (m : Mem) : Statement (.les r m) := fits_rm _ _ _

theorem lahf : Statement .lahf := fits_fixed _ rfl

theorem sahf : Statement .sahf := fits_fixed _ rfl

theorem cbw : Statement .cbw := fits_fixed _ rfl

theorem cwd : Statement .cwd := fits_fixed _ rfl

theorem inc (f : IncForm) : Statement (.inc f) := fits_inc _ _ f

theorem dec (f : IncForm) : Statement (.dec f) := fits_inc _ _ f

theorem not (f : UnaryForm) : Statement (.not f) := fits_unary _ f

theorem neg (f : UnaryForm) : Statement (.neg f) := fits_unary _ f

theorem mul (f : UnaryForm) : Statement (.mul f) := fits_unary _ f

theorem imul : ∀ f : ImulForm, Statement (.imul f)
  | .eb _ => fits_rm _ _ _
  | .ew _ => fits_rm _ _ _
  | .rwEwDw _ _ _ => fits_rm_word _ _ _ _
  | .rwEwDb _ _ _ => fits_rm_byte _ _ _ _

theorem div (f : UnaryForm) : Statement (.div f) := fits_unary _ f

theorem idiv (f : UnaryForm) : Statement (.idiv f) := fits_unary _ f

theorem daa : Statement .daa := fits_fixed _ rfl

theorem das : Statement .das := fits_fixed _ rfl

theorem aaa : Statement .aaa := fits_fixed _ rfl

theorem aas : Statement .aas := fits_fixed _ rfl

theorem aam : Statement .aam := fits_fixed _ rfl

theorem aad : Statement .aad := fits_fixed _ rfl

theorem test : ∀ f : TestForm, Statement (.test f)
  | .ebRb _ _ => fits_rm _ _ _
  | .ewRw _ _ => fits_rm _ _ _
  | .alDb _ => fits_fixed _ rfl
  | .axDw _ => fits_fixed _ rfl
  | .ebDb _ _ => fits_rm_byte _ _ _ _
  | .ewDw _ _ => fits_rm_word _ _ _ _

theorem rol (f : ShiftForm) : Statement (.rol f) := fits_shift _ f

theorem ror (f : ShiftForm) : Statement (.ror f) := fits_shift _ f

theorem rcl (f : ShiftForm) : Statement (.rcl f) := fits_shift _ f

theorem rcr (f : ShiftForm) : Statement (.rcr f) := fits_shift _ f

theorem shl (f : ShiftForm) : Statement (.shl f) := fits_shift _ f

theorem shr (f : ShiftForm) : Statement (.shr f) := fits_shift _ f

theorem sar (f : ShiftForm) : Statement (.sar f) := fits_shift _ f

theorem movsb : Statement .movsb := fits_fixed _ rfl

theorem movsw : Statement .movsw := fits_fixed _ rfl

theorem cmpsb : Statement .cmpsb := fits_fixed _ rfl

theorem cmpsw : Statement .cmpsw := fits_fixed _ rfl

theorem scasb : Statement .scasb := fits_fixed _ rfl

theorem scasw : Statement .scasw := fits_fixed _ rfl

theorem lodsb : Statement .lodsb := fits_fixed _ rfl

theorem lodsw : Statement .lodsw := fits_fixed _ rfl

theorem stosb : Statement .stosb := fits_fixed _ rfl

theorem stosw : Statement .stosw := fits_fixed _ rfl

theorem insb : Statement .insb := fits_fixed _ rfl

theorem insw : Statement .insw := fits_fixed _ rfl

theorem outsb : Statement .outsb := fits_fixed _ rfl

theorem outsw : Statement .outsw := fits_fixed _ rfl

theorem rep : Statement .rep := fits_fixed _ rfl

theorem repne : Statement .repne := fits_fixed _ rfl

theorem jmp : ∀ f : JmpForm, Statement (.jmp f)
  | .short _ => fits_fixed _ rfl
  | .near _ => fits_fixed _ rfl
  | .ew _ => fits_rm _ _ _
  | .far _ _ => fits_fixed _ rfl
  | .ed _ => fits_rm _ _ _

theorem jo (d : Byte) : Statement (.jo d) := fits_fixed _ rfl

theorem jno (d : Byte) : Statement (.jno d) := fits_fixed _ rfl

theorem jb (d : Byte) : Statement (.jb d) := fits_fixed _ rfl

theorem jae (d : Byte) : Statement (.jae d) := fits_fixed _ rfl

theorem je (d : Byte) : Statement (.je d) := fits_fixed _ rfl

theorem jne (d : Byte) : Statement (.jne d) := fits_fixed _ rfl

theorem jbe (d : Byte) : Statement (.jbe d) := fits_fixed _ rfl

theorem ja (d : Byte) : Statement (.ja d) := fits_fixed _ rfl

theorem js (d : Byte) : Statement (.js d) := fits_fixed _ rfl

theorem jns (d : Byte) : Statement (.jns d) := fits_fixed _ rfl

theorem jp (d : Byte) : Statement (.jp d) := fits_fixed _ rfl

theorem jnp (d : Byte) : Statement (.jnp d) := fits_fixed _ rfl

theorem jl (d : Byte) : Statement (.jl d) := fits_fixed _ rfl

theorem jge (d : Byte) : Statement (.jge d) := fits_fixed _ rfl

theorem jle (d : Byte) : Statement (.jle d) := fits_fixed _ rfl

theorem jg (d : Byte) : Statement (.jg d) := fits_fixed _ rfl

theorem jcxz (d : Byte) : Statement (.jcxz d) := fits_fixed _ rfl

theorem loop (d : Byte) : Statement (.loop d) := fits_fixed _ rfl

theorem loope (d : Byte) : Statement (.loope d) := fits_fixed _ rfl

theorem loopne (d : Byte) : Statement (.loopne d) := fits_fixed _ rfl

theorem call : ∀ f : CallForm, Statement (.call f)
  | .near _ => fits_fixed _ rfl
  | .ew _ => fits_rm _ _ _
  | .far _ _ => fits_fixed _ rfl
  | .ed _ => fits_rm _ _ _

theorem ret : ∀ f : RetForm, Statement (.ret f)
  | .near => fits_fixed _ rfl
  | .nearImm _ => fits_fixed _ rfl
  | .far => fits_fixed _ rfl
  | .farImm _ => fits_fixed _ rfl

theorem int (v : Byte) : Statement (.int v) := fits_fixed _ rfl

theorem int3 : Statement .int3 := fits_fixed _ rfl

theorem into : Statement .into := fits_fixed _ rfl

theorem iret : Statement .iret := fits_fixed _ rfl

theorem clc : Statement .clc := fits_fixed _ rfl

theorem stc : Statement .stc := fits_fixed _ rfl

theorem cmc : Statement .cmc := fits_fixed _ rfl

theorem cld : Statement .cld := fits_fixed _ rfl

theorem std : Statement .std := fits_fixed _ rfl

theorem cli : Statement .cli := fits_fixed _ rfl

theorem sti : Statement .sti := fits_fixed _ rfl

theorem hlt : Statement .hlt := fits_fixed _ rfl

theorem nop : Statement .nop := fits_fixed _ rfl

theorem lock : Statement .lock := fits_fixed _ rfl

theorem segEs : Statement .segEs := fits_fixed _ rfl

theorem segCs : Statement .segCs := fits_fixed _ rfl

theorem segSs : Statement .segSs := fits_fixed _ rfl

theorem segDs : Statement .segDs := fits_fixed _ rfl

theorem enter (size : Word) (level : Byte) : Statement (.enter size level) := fits_fixed _ rfl

theorem leave : Statement .leave := fits_fixed _ rfl

theorem bound (r : Reg16) (m : Mem) : Statement (.bound r m) := fits_rm _ _ _

theorem wait : Statement .wait := fits_fixed _ rfl

theorem esc (ttt : BitVec 3) (reg : BitVec 3) (rm : Rm (BitVec 3)) : Statement (.esc ttt reg rm) := fits_rm _ _ _

theorem arpl (e : Ew) (r : Reg16) : Statement (.arpl e r) := fits_rm _ _ _

theorem sldt (e : Ew) : Statement (.sldt e) := fits_two_rm _ _ _ _

theorem str (e : Ew) : Statement (.str e) := fits_two_rm _ _ _ _

theorem lldt (e : Ew) : Statement (.lldt e) := fits_two_rm _ _ _ _

theorem ltr (e : Ew) : Statement (.ltr e) := fits_two_rm _ _ _ _

theorem verr (e : Ew) : Statement (.verr e) := fits_two_rm _ _ _ _

theorem verw (e : Ew) : Statement (.verw e) := fits_two_rm _ _ _ _

theorem sgdt (m : Mem) : Statement (.sgdt m) := fits_two_rm _ _ _ _

theorem sidt (m : Mem) : Statement (.sidt m) := fits_two_rm _ _ _ _

theorem lgdt (m : Mem) : Statement (.lgdt m) := fits_two_rm _ _ _ _

theorem lidt (m : Mem) : Statement (.lidt m) := fits_two_rm _ _ _ _

theorem smsw (e : Ew) : Statement (.smsw e) := fits_two_rm _ _ _ _

theorem lmsw (e : Ew) : Statement (.lmsw e) := fits_two_rm _ _ _ _

theorem lar (r : Reg16) (e : Ew) : Statement (.lar r e) := fits_two_rm _ _ _ _

theorem lsl (r : Reg16) (e : Ew) : Statement (.lsl r e) := fits_two_rm _ _ _ _

theorem clts : Statement .clts := fits_fixed _ rfl

theorem fld : ∀ f : FldForm, Statement (.fld f)
  | .m32 _ => fits_rm _ _ _
  | .m64 _ => fits_rm _ _ _
  | .m80 _ => fits_rm _ _ _
  | .st _ => fits_rm _ _ _

theorem fst : ∀ f : RealForm, Statement (.fst f)
  | .m32 _ => fits_rm _ _ _
  | .m64 _ => fits_rm _ _ _
  | .st _ => fits_rm _ _ _

theorem fstp : ∀ f : FstpForm, Statement (.fstp f)
  | .m32 _ => fits_rm _ _ _
  | .m64 _ => fits_rm _ _ _
  | .m80 _ => fits_rm _ _ _
  | .st _ => fits_rm _ _ _

theorem fxch (i : BitVec 3) : Statement (.fxch i) := fits_rm _ _ _

theorem fild : ∀ f : LongIntForm, Statement (.fild f)
  | .m16 _ => fits_rm _ _ _
  | .m32 _ => fits_rm _ _ _
  | .m64 _ => fits_rm _ _ _

theorem fist : ∀ f : IntForm, Statement (.fist f)
  | .m16 _ => fits_rm _ _ _
  | .m32 _ => fits_rm _ _ _

theorem fistp : ∀ f : LongIntForm, Statement (.fistp f)
  | .m16 _ => fits_rm _ _ _
  | .m32 _ => fits_rm _ _ _
  | .m64 _ => fits_rm _ _ _

theorem fbld (m : Mem) : Statement (.fbld m) := fits_rm _ _ _

theorem fbstp (m : Mem) : Statement (.fbstp m) := fits_rm _ _ _

theorem fadd (f : ArithForm) : Statement (.fadd f) := fits_arith _ _ f

theorem faddp (i : BitVec 3) : Statement (.faddp i) := fits_rm _ _ _

theorem fiadd (f : IntForm) : Statement (.fiadd f) := fits_int _ f

theorem fmul (f : ArithForm) : Statement (.fmul f) := fits_arith _ _ f

theorem fmulp (i : BitVec 3) : Statement (.fmulp i) := fits_rm _ _ _

theorem fimul (f : IntForm) : Statement (.fimul f) := fits_int _ f

theorem fsub (f : ArithForm) : Statement (.fsub f) := fits_arith _ _ f

theorem fsubp (i : BitVec 3) : Statement (.fsubp i) := fits_rm _ _ _

theorem fisub (f : IntForm) : Statement (.fisub f) := fits_int _ f

theorem fsubr (f : ArithForm) : Statement (.fsubr f) := fits_arith _ _ f

theorem fsubrp (i : BitVec 3) : Statement (.fsubrp i) := fits_rm _ _ _

theorem fisubr (f : IntForm) : Statement (.fisubr f) := fits_int _ f

theorem fdiv (f : ArithForm) : Statement (.fdiv f) := fits_arith _ _ f

theorem fdivp (i : BitVec 3) : Statement (.fdivp i) := fits_rm _ _ _

theorem fidiv (f : IntForm) : Statement (.fidiv f) := fits_int _ f

theorem fdivr (f : ArithForm) : Statement (.fdivr f) := fits_arith _ _ f

theorem fdivrp (i : BitVec 3) : Statement (.fdivrp i) := fits_rm _ _ _

theorem fidivr (f : IntForm) : Statement (.fidivr f) := fits_int _ f

theorem fsqrt : Statement .fsqrt := fits_fixed _ rfl

theorem fscale : Statement .fscale := fits_fixed _ rfl

theorem fprem : Statement .fprem := fits_fixed _ rfl

theorem frndint : Statement .frndint := fits_fixed _ rfl

theorem fxtract : Statement .fxtract := fits_fixed _ rfl

theorem fabs : Statement .fabs := fits_fixed _ rfl

theorem fchs : Statement .fchs := fits_fixed _ rfl

theorem fcom (f : RealForm) : Statement (.fcom f) := fits_compare _ f

theorem fcomp (f : RealForm) : Statement (.fcomp f) := fits_compare _ f

theorem fcompp : Statement .fcompp := fits_fixed _ rfl

theorem ficom (f : IntForm) : Statement (.ficom f) := fits_int _ f

theorem ficomp (f : IntForm) : Statement (.ficomp f) := fits_int _ f

theorem ftst : Statement .ftst := fits_fixed _ rfl

theorem fxam : Statement .fxam := fits_fixed _ rfl

theorem fptan : Statement .fptan := fits_fixed _ rfl

theorem fpatan : Statement .fpatan := fits_fixed _ rfl

theorem f2xm1 : Statement .f2xm1 := fits_fixed _ rfl

theorem fyl2x : Statement .fyl2x := fits_fixed _ rfl

theorem fyl2xp1 : Statement .fyl2xp1 := fits_fixed _ rfl

theorem fldz : Statement .fldz := fits_fixed _ rfl

theorem fld1 : Statement .fld1 := fits_fixed _ rfl

theorem fldpi : Statement .fldpi := fits_fixed _ rfl

theorem fldl2t : Statement .fldl2t := fits_fixed _ rfl

theorem fldl2e : Statement .fldl2e := fits_fixed _ rfl

theorem fldlg2 : Statement .fldlg2 := fits_fixed _ rfl

theorem fldln2 : Statement .fldln2 := fits_fixed _ rfl

theorem finit : Statement .finit := fits_fixed _ rfl

theorem fsetpm : Statement .fsetpm := fits_fixed _ rfl

theorem fldcw (m : Mem) : Statement (.fldcw m) := fits_rm _ _ _

theorem fstcw (m : Mem) : Statement (.fstcw m) := fits_rm _ _ _

theorem fstsw (m : Mem) : Statement (.fstsw m) := fits_rm _ _ _

theorem fstswAx : Statement .fstswAx := fits_fixed _ rfl

theorem fclex : Statement .fclex := fits_fixed _ rfl

theorem fstenv (m : Mem) : Statement (.fstenv m) := fits_rm _ _ _

theorem fldenv (m : Mem) : Statement (.fldenv m) := fits_rm _ _ _

theorem fsave (m : Mem) : Statement (.fsave m) := fits_rm _ _ _

theorem frstor (m : Mem) : Statement (.frstor m) := fits_rm _ _ _

theorem fincstp : Statement .fincstp := fits_fixed _ rfl

theorem fdecstp : Statement .fdecstp := fits_fixed _ rfl

theorem ffree (i : BitVec 3) : Statement (.ffree i) := fits_rm _ _ _

theorem fnop : Statement .fnop := fits_fixed _ rfl

theorem feni : Statement .feni := fits_fixed _ rfl

theorem fdisi : Statement .fdisi := fits_fixed _ rfl

theorem fstpAlias1 (i : BitVec 3) : Statement (.fstpAlias1 i) := fits_rm _ _ _

theorem fcomAlias2 (i : BitVec 3) : Statement (.fcomAlias2 i) := fits_rm _ _ _

theorem fcompAlias3 (i : BitVec 3) : Statement (.fcompAlias3 i) := fits_rm _ _ _

theorem fxchAlias4 (i : BitVec 3) : Statement (.fxchAlias4 i) := fits_rm _ _ _

theorem fcompAlias5 (i : BitVec 3) : Statement (.fcompAlias5 i) := fits_rm _ _ _

theorem ffreePopAlias6 (i : BitVec 3) : Statement (.ffreePopAlias6 i) := fits_rm _ _ _

theorem fxchAlias7 (i : BitVec 3) : Statement (.fxchAlias7 i) := fits_rm _ _ _

theorem fstpAlias8 (i : BitVec 3) : Statement (.fstpAlias8 i) := fits_rm _ _ _

theorem fstpAlias9 (i : BitVec 3) : Statement (.fstpAlias9 i) := fits_rm _ _ _

end EncodedLength

end Sys2Proof.Laws
end

