-- ==== Sys2Proof/Tests/Slice0.lean ====
section
/-! SUPPORT. The model's own tests: ill-formed terms refused, words decoded, single steps with results from
spec/95_test_vectors.md, and a state that meets the hypotheses of each statement. -/

namespace Sys2Proof.Tests

open Sys2Proof.Machine

set_option Elab.async false

/-! ## Well-formedness: what each check refuses -/

theorem test_wf_bp_needs_displacement : Mem.wf (.ind .bp) = false := by decide
theorem test_wf_operand : Rm.wf (R := Reg8) (.mem (.ind .bp)) = false := by decide
theorem test_wf_add_operand : Instr.wf (.add (.ebRb (.mem (.ind .bp)) .al)) = false := by decide
theorem test_wf_and_has_no_sign_extended_byte : Instr.wf (.and (.ewDb (.reg .ax) 1)) = false := by decide
theorem test_wf_or_has_no_sign_extended_byte : Instr.wf (.or (.ewDb (.reg .ax) 1)) = false := by decide
theorem test_wf_xor_has_no_sign_extended_byte : Instr.wf (.xor (.ewDb (.reg .ax) 1)) = false := by decide
theorem test_wf_mov_to_cs : Instr.wf (.mov (.sregEw .cs (.reg .ax))) = false := by decide
theorem test_wf_pop_cs : Instr.wf (.pop (.sreg .cs)) = false := by decide
theorem test_wf_xchg_ax_ax_is_nop : Instr.wf (.xchg (.axRw .ax)) = false := by decide
theorem test_wf_push : Instr.wf (.push (.mw (.mem (.ind .bp)))) = false := by decide
theorem test_wf_inc : Instr.wf (.inc (.ew (.mem (.ind .bp)))) = false := by decide
theorem test_wf_mul : Instr.wf (.mul (.eb (.mem (.ind .bp)))) = false := by decide
theorem test_wf_imul : Instr.wf (.imul (.rwEwDb .ax (.mem (.ind .bp)) 1)) = false := by decide
theorem test_wf_test : Instr.wf (.test (.ewDw (.mem (.ind .bp)) 1)) = false := by decide
theorem test_wf_shift : Instr.wf (.shl (.eb (.mem (.ind .bp)) .cl)) = false := by decide
theorem test_wf_jmp : Instr.wf (.jmp (.ed (.ind .bp))) = false := by decide
theorem test_wf_call : Instr.wf (.call (.ew (.mem (.ind .bp)))) = false := by decide
theorem test_wf_lea : Instr.wf (.lea .ax (.ind .bp)) = false := by decide
theorem test_wf_lgdt : Instr.wf (.lgdt (.ind .bp)) = false := by decide
theorem test_wf_fld : Instr.wf (.fld (.m80 (.ind .bp))) = false := by decide
theorem test_wf_fstp : Instr.wf (.fstp (.m80 (.ind .bp))) = false := by decide
theorem test_wf_fcom : Instr.wf (.fcom (.m64 (.ind .bp))) = false := by decide
theorem test_wf_fadd : Instr.wf (.fadd (.m32 (.ind .bp))) = false := by decide
theorem test_wf_fiadd : Instr.wf (.fiadd (.m16 (.ind .bp))) = false := by decide
theorem test_wf_fild : Instr.wf (.fild (.m64 (.ind .bp))) = false := by decide
theorem test_wf_esc_register_assigned : Instr.wf (.esc 1 5 (.reg 0)) = false := by decide
theorem test_wf_esc_memory_assigned : Instr.wf (.esc 0 0 (.mem (.direct 0))) = false := by decide
theorem test_wf_esc_reserved : Instr.wf (.esc 1 1 (.mem (.direct 0))) = true := by decide

/-! ## Decoding: words written out from the tables of 30_encoding.md and 49_npx_instructions.md -/

theorem test_decode_add : decode [0x03, 0x5E, 0xFE] = .ok (.add (.rwEw .bx (.mem (.disp8 .bp 0xFE))), []) := rfl
theorem test_decode_sub_imm : decode [0x83, 0xE8, 0xFF] = .ok (.sub (.ewDb (.reg .ax) 0xFF), []) := rfl
theorem test_decode_mov_sreg : decode [0x8E, 0xD8] = .ok (.mov (.sregEw .ds (.reg .ax)), []) := rfl
theorem test_decode_mov_direct : decode [0xA3, 0x34, 0x12] = .ok (.mov (.xwAx 0x1234), []) := rfl
theorem test_decode_shl : decode [0xC1, 0xE0, 0x04] = .ok (.shl (.ew (.reg .ax) (.imm 4)), []) := rfl
theorem test_decode_neg : decode [0xF6, 0xD9] = .ok (.neg (.eb (.reg .cl)), []) := rfl
theorem test_decode_imul : decode [0x6B, 0xC3, 0xFE] = .ok (.imul (.rwEwDb .ax (.reg .bx) 0xFE), []) := rfl
theorem test_decode_movsw : decode [0xA5] = .ok (.movsw, []) := rfl
theorem test_decode_call_far : decode [0x9A, 0x34, 0x12, 0x00, 0x20] = .ok (.call (.far 0x1234 0x2000), []) := rfl
theorem test_decode_jl : decode [0x7C, 0xFE] = .ok (.jl 0xFE, []) := rfl
theorem test_decode_enter : decode [0xC8, 0x10, 0x00, 0x01] = .ok (.enter 0x0010 0x01, []) := rfl
theorem test_decode_bound : decode [0x62, 0x07] = .ok (.bound .ax (.ind .bx), []) := rfl
theorem test_decode_lgdt : decode [0x0F, 0x01, 0x16, 0x00, 0x80] = .ok (.lgdt (.direct 0x8000), []) := rfl
theorem test_decode_lar : decode [0x0F, 0x02, 0xC3] = .ok (.lar .ax (.reg .bx), []) := rfl
theorem test_decode_fadd : decode [0xD8, 0x04] = .ok (.fadd (.m32 (.ind .si)), []) := rfl
theorem test_decode_fsub_reversed_pair : decode [0xDC, 0xE1] = .ok (.fsubr (.stiSt 1), []) := rfl
theorem test_decode_fld1 : decode [0xD9, 0xE8] = .ok (.fld1, []) := rfl
theorem test_decode_fstsw_ax : decode [0xDF, 0xE0] = .ok (.fstswAx, []) := rfl
theorem test_decode_undefined : decode [0x0F, 0x05] = .error .undefined := rfl
theorem test_decode_lgdt_register : decode [0x0F, 0x01, 0xD0] = .error .undefined := rfl
theorem test_decode_f6_1 : decode [0xF6, 0xC8] = .error .undefined := rfl
theorem test_decode_ff_7 : decode [0xFF, 0xF8] = .error .stackGroup := rfl
theorem test_decode_aam_base : decode [0xD4, 0x08] = .error .adjustByte := rfl
theorem test_table_word : decodeTableWord 16 0xD9E8 = some .fld1 := by decide
theorem test_table_byte : decodeTableWord 8 0xF4 = some .hlt := by decide

/-! ## Single steps (spec/95_test_vectors.md) -/

/-- Real Address Mode with separate segments. -/
def real : State :=
  { State.reset with
    cs := .atReset 0x1000 0x10000, ds := .atReset 0x2000 0x20000, es := .atReset 0x2000 0x20000
    ss := .atReset 0x3000 0x30000, ip := 0x100, sp := 0x200 }

/-- A segment register loaded in Protected Mode. -/
def loaded (sel : Word) (base : Addr) (access : Byte) : SegReg :=
  { sel := sel, base := base, limit := 0xFFFF, access := access, valid := true }

/-- A descriptor table at 1000H: code 08H, data 10H, an LDT 18H, a free TSS 20H; an interrupt gate for vector 3 at 2018H. -/
def tables : List Host.Cell :=
  [(0x1008, 0xFF), (0x1009, 0xFF), (0x100C, 0x01), (0x100D, 0x9A), (0x1010, 0xFF), (0x1011, 0xFF), (0x1014, 0x02),
    (0x1015, 0x92), (0x1018, 0x0F), (0x101B, 0x30), (0x101D, 0x82), (0x1020, 0x2B), (0x1023, 0x40), (0x1025, 0x81),
    (0x2019, 0x05), (0x201A, 0x08), (0x201D, 0x86), (0x4024, 0x08), (0x4026, 0x10)]

/-- Protected Mode at privilege level 0. -/
def prot : State :=
  { State.reset with
    msw := 0xFFF1, cs := loaded 0x08 0x10000 0x9B, ds := loaded 0x10 0x20000 0x93, es := loaded 0x10 0x20000 0x93
    ss := loaded 0x10 0x20000 0x93, ip := 0x100, sp := 0x200, gdtr := { base := 0x1000, limit := 0x27 }
    idtr := { base := 0x2000, limit := 0xFF }, mem := tables
    tr := { sel := 0x20, base := 0x4000, limit := 0x2B, valid := true } }

/-- Protected Mode at privilege level 3. -/
def user : State := { prot with cs := loaded 0x0B 0x10000 0xFB }

/-- The 80287 with ST = a, ST(1) = b and the other registers Empty. -/
def fpu (a b : Temp) : State :=
  { real with npx := ((Npx.atReset.push b).push a) }

/-- `p` holds of the next state. -/
def after (i : Instr) (s : State) (p : State → Bool) : Bool :=
  match exec i s with
  | .next t => p t
  | _ => false

/-- CF, AF, ZF, SF and OF. -/
def fiveFlags (t : State) : List Bool := [t.flag .cf, t.flag .af, t.flag .zf, t.flag .sf, t.flag .of]

theorem test_add_wraps : after (.add (.alDb 0x01)) { real with ax := 0x12FF } (fun t =>
    t.ax == 0x1200 && fiveFlags t == [true, true, true, false, false]) = true := by decide +kernel
theorem test_adc_carries_in : after (.adc (.axDw 0x7FFF)) { real with ax := 0, flags := 3 } (fun t =>
    t.ax == 0x8000 && fiveFlags t == [false, true, false, true, true]) = true := by decide +kernel
theorem test_sub_borrows : after (.sub (.alDb 0x01)) { real with ax := 0x1200 } (fun t =>
    t.ax == 0x12FF && fiveFlags t == [true, true, false, true, false]) = true := by decide +kernel
theorem test_sbb_borrow_in : after (.sbb (.axDw 0)) { real with ax := 0, flags := 3 } (fun t =>
    t.ax == 0xFFFF && t.flag .cf) = true := by decide +kernel
theorem test_cmp_stores_nothing : after (.cmp (.axDw 2)) { real with ax := 1 } (fun t =>
    t.ax == 1 && t.flag .cf && t.flag .sf) = true := by decide +kernel
theorem test_inc_keeps_carry : after (.inc (.rw .ax)) { real with ax := 0xFFFF, flags := 3 } (fun t =>
    t.ax == 0 && t.flag .cf && t.flag .zf) = true := by decide +kernel
theorem test_neg_most_negative : after (.neg (.eb (.reg .al))) { real with ax := 0x80 } (fun t =>
    t.ax == 0x80 && t.flag .cf && t.flag .of) = true := by decide +kernel
theorem test_mul_byte : after (.mul (.eb (.reg .bl))) { real with ax := 0xFF, bx := 0xFF } (fun t =>
    t.ax == 0xFE01) = true := by decide +kernel
theorem test_imul_sign : after (.imul (.rwEwDb .cx (.reg .bx) 0xFE)) { real with bx := 3 } (fun t =>
    t.cx == 0xFFFA) = true := by decide +kernel
theorem test_idiv_most_negative_quotient : after (.idiv (.eb (.reg .bl))) { real with ax := 0xFF80, bx := 1 } (fun t =>
    t.ax == 0x0080) = true := by decide +kernel
theorem test_daa : after .daa { real with ax := 0x9A } (fun t =>
    t.ax == 0) = true := by decide +kernel
theorem test_aam : after .aam { real with ax := 0x3F } (fun t => t.ax == 0x0603) = true := by decide +kernel
theorem test_aad : after .aad { real with ax := 0x0603 } (fun t => t.ax == 0x3F) = true := by decide +kernel
theorem test_rol_eight_restores : after (.rol (.eb (.reg .al) (.imm 8))) { real with ax := 0xA5 } (fun t =>
    t.ax == 0xA5) = true := by decide +kernel
theorem test_rcr_through_carry : after (.rcr (.eb (.reg .al) (.imm 3))) { real with ax := 0xA5, flags := 3 } (fun t =>
    t.ax == 0x74) = true := by decide +kernel
theorem test_sar_keeps_sign : after (.sar (.ew (.reg .ax) .one)) { real with ax := 0x8001 } (fun t =>
    t.ax == 0xC000) = true := by decide +kernel
theorem test_mov_byte_half : after (.mov (.ebRb (.reg .al) .ah)) { real with ax := 0x1234 } (fun t =>
    t.ax == 0x1212) = true := by decide +kernel
theorem test_mov_stores_memory : after (.mov (.ebDb (.mem (.direct 0x200)) 0x7F)) real (fun t =>
    t.mem == [(0x20200, 0x7F)]) = true := by decide +kernel
theorem test_mov_ss_inhibits : after (.mov (.sregEw .ss (.reg .ax))) { real with ax := 0x3000 } (fun t =>
    t.ss.base == 0x30000 && t.inhibitAll) = true := by decide +kernel
theorem test_mov_ds_protected : after (.mov (.sregEw .ds (.reg .ax))) { prot with ax := 0x10 } (fun t =>
    t.ds == loaded 0x10 0x20000 0x93 && t.readByte 0x1015 == 0x93) = true := by decide +kernel
theorem test_push_sp_before : after (.push (.rw .sp)) { real with sp := 0x100 } (fun t =>
    t.sp == 0xFE && t.readWord 0x300FE == 0x100) = true := by decide +kernel
theorem test_pop_sp : after (.pop (.rw .sp)) { real with sp := 0xFE, mem := [(0x300FE, 0x34), (0x300FF, 0x12)] } (fun t =>
    t.sp == 0x1234) = true := by decide +kernel
theorem test_push_at_one_shuts_down : after (.push (.rw .ax)) { real with sp := 1 } (fun t =>
    t.run == .shutdown) = true := by decide +kernel
theorem test_popf_real_keeps_iopl : after .popf { real with mem := [(0x30200, 0xFF), (0x30201, 0xFF)] } (fun t =>
    t.flags == 0x0FD7) = true := by decide +kernel
theorem test_xlat_wraps : after .xlat { real with bx := 0xFFF0, ax := 0x1120, mem := [(0x20010, 0x77)] } (fun t =>
    t.ax == 0x1177) = true := by decide +kernel
theorem test_movsb_backwards : after .movsb { real with si := 5, di := 9, flags := 0x402, mem := [(0x20005, 0xAA)] } (fun t =>
    t.readByte 0x20009 == 0xAA && t.si == 4 && t.di == 8) = true := by decide +kernel
theorem test_rep_begins_again : after .stosb
    { real with cx := 2, istart := 0xFE, pfx := { Prefixes.none with rep := some .rep, count := 1 } } (fun t =>
    t.cx == 1 && t.ip == 0xFE && t.di == 1) = true := by decide +kernel
theorem test_loop_from_zero : after (.loop 0xFE) real (fun t => t.cx == 0xFFFF && t.ip == 0xFE) = true := by decide +kernel
theorem test_jl : after (.jl 0x10) { real with flags := 0x82 } (fun t => t.ip == 0x110) = true := by decide +kernel
theorem test_call_pushes_next : after (.call (.near 0x10)) real (fun t =>
    t.ip == 0x110 && t.sp == 0x1FE && t.readWord 0x301FE == 0x100) = true := by decide +kernel
theorem test_int_without_room_shuts_down : after (.int 0x21) { real with sp := 3 } (fun t =>
    t.run == .shutdown && t.sp == 3) = true := by decide +kernel
theorem test_iret : after .iret
    { real with mem := [(0x30200, 0x34), (0x30201, 0x12), (0x30203, 0x40), (0x30204, 0x43)] } (fun t =>
    t.ip == 0x1234 && t.cs.base == 0x40000 && t.sp == 0x206 && t.flags == 0x0043) = true := by decide +kernel
theorem test_enter : after (.enter 12 0) { real with sp := 0x100, bp := 0x200 } (fun t =>
    t.bp == 0xFE && t.sp == 0xF2 && t.readWord 0x300FE == 0x200) = true := by decide +kernel
theorem test_lmsw_cannot_leave : after (.lmsw (.reg .ax)) { prot with ax := 0 } (fun t => t.msw == 0xFFF1) = true := by
  decide +kernel
theorem test_ltr_marks_busy : after (.ltr (.reg .ax)) { prot with ax := 0x20 } (fun t =>
    t.tr.base == 0x4000 && t.readByte 0x1025 == 0x83) = true := by decide +kernel
theorem test_lar : after (.lar .bx (.reg .ax)) { prot with ax := 0x08 } (fun t =>
    t.bx == 0x9A00 && t.flag .zf) = true := by decide +kernel
theorem test_fadd_one_and_one : after (.fadd (.stSti 1)) (fpu 0x3FFF8000000000000000 0x3FFF8000000000000000) (fun t =>
    t.npx.st 0 == 0x40008000000000000000) = true := by decide +kernel
theorem test_frndint_nearest : after .frndint (fpu 0x40069BA0000000000000 0) (fun t =>
    t.npx.st 0 == 0x40069C00000000000000 && t.npx.status.getLsbD 5) = true := by decide +kernel
theorem test_fxtract : after .fxtract (fpu 0x40038000000000000000 0) (fun t =>
    t.npx.st 0 == 0x3FFF8000000000000000 && t.npx.st 1 == 0x40018000000000000000) = true := by decide +kernel
theorem test_fistp_minus_126 : after (.fistp (.m16 (.direct 0))) (fpu 0xC005FC00000000000000 0) (fun t =>
    t.readWord 0x20000 == 0xFF82 && t.npx.top == 7) = true := by decide +kernel
theorem test_fst_short_real : after (.fst (.m32 (.direct 0))) (fpu 0xC005FC00000000000000 0) (fun t =>
    t.readWord 0x20002 == 0xC2FC && t.readWord 0x20000 == 0) = true := by decide +kernel
theorem test_fbstp : after (.fbstp (.direct 0)) (fpu 0xC005FC00000000000000 0) (fun t =>
    t.readWord 0x20000 == 0x0126 && t.readWord 0x20008 == 0x8000) = true := by decide +kernel
theorem test_fprem_quotient_five : after .fprem (fpu 0x4003D800000000000000 0x4001A000000000000000) (fun t =>
    t.npx.st 0 == 0x40008000000000000000 && t.npx.status &&& 0x4700 == 0x0300) = true := by decide +kernel
theorem test_fcom_less : after (.fcom (.st 1)) (fpu 0x3FFF8000000000000000 0x40008000000000000000) (fun t =>
    t.npx.status &&& 0x4500 == 0x0100) = true := by decide +kernel
theorem test_fsqrt_four : after .fsqrt (fpu 0x40018000000000000000 0) (fun t =>
    t.npx.st 0 == 0x40008000000000000000) = true := by decide +kernel

/-- 2.5 is 3 in packed decimal; PE is open (log 30). -/
theorem test_fbstp_rounds : after (.fbstp (.direct 0)) (fpu 0x4000A000000000000000 0) (fun t =>
    t.readWord 0x20000 == 0x0003 && t.readWord 0x20008 == 0) = true := by decide +kernel
/-- FPREM of NaNs sets IE and clears C2; ST is open (R835, log 72). -/
theorem test_fprem_nan : after .fprem (fpu 0x7FFFC000000000000000 0xFFFFE000000000000000) (fun t =>
    t.npx.status &&& 0x0401 == 1 && t.npx.st 1 == 0xFFFFE000000000000000) = true := by decide +kernel
theorem test_fsqrt_two : after .fsqrt (fpu 0x40008000000000000000 0) (fun t =>
    t.npx.st 0 == 0x3FFFB504F333F9DE6484 && t.npx.status.getLsbD 5) = true := by decide +kernel

/-! ## Other platforms (00_scope.md R7) -/

/-- ROM from 20000H to 2000FH, no memory from 20010H to 2001FH. -/
def board : Platform := { regions := [⟨0x20000, 0x2000F, .rom⟩, ⟨0x20010, 0x2001F, .other⟩], masksHigh := false }

theorem test_store_in_rom_is_lost : after (.mov (.xbAl 0x0F)) { real with platform := board, ax := 5 } (fun t =>
    t.readByte 0x2000F == 0 && t.ioTrace == []) = true := by decide +kernel
theorem test_store_without_memory_is_seen : after (.mov (.xbAl 0x10)) { real with platform := board, ax := 5 } (fun t =>
    t.mem == [] && t.ioTrace == [.store 0x20010 5]) = true := by decide +kernel
theorem test_masked_address : after (.mov (.xbAl 0x10))
    { real with platform := { board with masksHigh := true }, ds := .atReset 0xFFFF 0xFFFF0, ax := 5 } (fun t =>
    t.ioTrace == [] && t.mem == [(0, 5)]) = true := by decide +kernel

/-! ## States that meet the hypotheses of the statements -/

/-- A step answers a next state. -/
def steps (s : State) : Bool :=
  match step s with
  | .next _ => true
  | _ => false

theorem steps_next {s : State} (h : steps s = true) : ∃ t, step s = .next t := by
  unfold steps at h
  split at h
  · exact ⟨_, by assumption⟩
  · cases h

/-- A memory operand. -/
def cell : Mem := .direct 0x10

/-- `real` with a word 0305H and its successor at the operand. -/
def data : State := { real with mem := [(0x20010, 0x05), (0x20011, 0x03), (0x20012, 0x07), (0x20013, 0x40)], ax := 0x0106, sp := 0x202 }

/-- `prot` with an operand that names the data segment. -/
def pdata : State :=
  { prot with mem := tables ++ [(0x20012, 0x10)], sp := 0x12 }

theorem witness_reset_input : ({ real with inputs := [⟨true, false, false, 0, []⟩] } : State).input.reset = true := rfl

theorem witness_invariant_step : State.reset.Inv ∧ ∃ t, step State.reset = .next t :=
  ⟨⟨rfl, rfl, rfl, fun _ => rfl, rfl, by decide, fun _ h => by cases h⟩, steps_next (by decide +kernel)⟩

theorem witness_protected_step : prot.pe = true ∧ prot.input.reset = false ∧ ∃ t, step prot = .next t :=
  ⟨rfl, rfl, steps_next (by decide +kernel)⟩

/-- INC AX at CS:IP. -/
def fetches : State := { real with mem := [(0x10100, 0x40)] }

theorem witness_fetch : fetches.input.reset = false ∧ fetches.run = .running ∧ fetches.pfx.count = 0 ∧ fetches.held = none ∧
    fetches.sampled.boundary fetches.input = none ∧ fetches.sampled.stale = [] ∧ (Instr.inc (.rw .ax)).wf = true ∧
    (∀ k : Nat, k < 1 → fetches.sampled.codeInLimit (fetches.sampled.fetchOffset + k) = true) ∧
    ∀ k : Nat, k < 1 →
      fetches.sampled.readByte (fetches.sampled.cs.addr (fetches.sampled.fetchOffset + k)) =
        (encode (.inc (.rw .ax))).getD k 0 := by
  decide +kernel

/-- The same byte after nine prefixes, and between two iterations of a repetition. -/
theorem witness_prefixed_and_held :
    ({ fetches with pfx := { Prefixes.none with count := 9 } } : State).pfx.count ≠ 0 ∧ 9 + (encode (.inc (.rw .ax))).length ≤ 10 ∧
    ({ fetches with held := some ⟨.movsb, .none, 0, false⟩ } : State).sampled.boundary fetches.input = none := by
  decide +kernel

/-- F3 has been seen at 100H and MOVSB follows, or WAIT after 26H, while an NMI waits. -/
def interrupted (code : Byte) (n : Word) : State :=
  { real with mem := [(8, 0x34), (9, 0x12), (0x10101, code)], pfx := { Prefixes.none with count := 1, rep := some .rep }
              istart := 0x100, ip := 0x101, cx := n, nmiPending := true }

/-- The NMI is entered before the first element, with CX as it was, and before WAIT too; with CX = 0 the instruction ends first
(R480, R561). -/
theorem test_event_before_first_iteration :
    ((interrupted 0xA4 5).sampled.eventInside Inputs.none).any (fun t =>
      t.cx == 5 && t.si == 0 && t.nmiInService && t.ip == 0x1234 && t.pfx == .none) = true ∧
    ((interrupted 0x9B 0).sampled.eventInside Inputs.none).any (fun t => t.ip == 0x1234) = true ∧
    (interrupted 0xA4 0).sampled.eventInside Inputs.none = none := by decide +kernel

theorem witness_event_inside : (interrupted 0xA4 5).pfx.count ≠ 0 ∧ (interrupted 0xA4 5).pfx.rep ≠ none ∧
    (interrupted 0xA4 5).mp = false ∧ (interrupted 0xA4 5).input.reset = false ∧ (interrupted 0xA4 5).run = .running ∧
    (let s := interrupted 0xA4 5
      let w : State := { s.sampled.advanced 1 with ip := s.istart, ipCarry := false, pfx := .none }
      (w.boundary s.input).isSome = true ∧ s.sampled.stale = [] ∧ s.sampled.codeInLimit 0x101 = true ∧ encode .movsb = [0xA4] ∧ s.readByte 0x10101 = 0xA4) := by
  decide +kernel

/-- Undefined opcodes and 8F /1, whole; the same and INC AX before their last byte; a code segment that ends after 0FH. -/
theorem witness_fetch_fails :
    undefinedOpcode [0x0F, 0x05] = true ∧ undefinedOpcode [0xC7, 0x08, 1, 2] = true ∧ undefinedStackOpcode [0x8F, 0x08] = true ∧
    Unfinished [0x0F] ∧ Unfinished [0xC7, 0x08, 1] ∧ Unfinished [0x40].tail ∧
    (let s : State := { real with ip := 0xFFFF, mem := [(0x1FFFF, 0x0F)] };
      s.codeInLimit 0xFFFF = true ∧ s.readByte (s.cs.addr 0xFFFF) = 0x0F ∧ s.codeInLimit (s.fetchOffset + 1) = false) :=
  ⟨by decide, by decide, by decide, ⟨by decide, by decide, [0x05], by decide, .inr (.inl (by decide))⟩,
    ⟨by decide, by decide, [2], by decide, .inr (.inl (by decide))⟩,
    ⟨by decide, by decide, [0x40], by decide, .inl ⟨.inc (.rw .ax), by decide⟩⟩, by decide +kernel⟩

theorem test_undefined_opcode : (match fetchInstr { real with mem := [(0x10100, 0x0F), (0x10101, 0x05)] } with
    | .error (.exn x _) t => x == .ud && t.ip == 0x100
    | _ => false) = true := by decide +kernel

/-- A write of another bus master at 20000H, in the first of two steps. -/
def contended (i : Instr) (lock : Bool) : State :=
  { real with cx := 3, held := some ⟨i, { Prefixes.none with rep := some .rep, lock := lock }, 0x102, false⟩
              inputs := [{ Inputs.none with writes := [(0x20000, 7)] }, Inputs.none] }

/-- The write waits while MOVS is locked, and not for STOS (log 71). -/
theorem test_locked_repetition : (contended .movsb true).sampled.mem = [] ∧
    (contended .movsb true).sampled.input.writes = [(0x20000, 7)] ∧ (contended .movsb false).sampled.mem = [(0x20000, 7)] ∧
    (contended .stosb true).sampled.mem = [(0x20000, 7)] ∧
    (contended .movsb true).sampled.boundary (contended .movsb true).input = none := by decide +kernel

theorem witness_well_formed : (Instr.fldcw (.disp8 .bp 0)).wf = true := rfl

theorem witness_alu : data.plainMemory = true ∧ data.aluReady true (.ewDb (.mem cell) 0xFF) = true ∧
    data.aluReady false (.ebRb (.mem cell) .al) = true := by decide +kernel

theorem witness_unary : data.incReady (.eb (.mem cell)) = true ∧ data.unaryReady true (.ew (.mem cell)) = true ∧
    data.readable (.mem cell : Eb) 1 = true ∧ data.readable (.mem cell : Ew) 2 = true := by decide +kernel

theorem witness_division_completes : data.get (data.locEb (.mem cell)) ≠ 0 ∧
    data.ax.toNat / data.get (data.locEb (.mem cell)) ≤ 255 ∧
    outOfRange 8 ((signedOf 16 data.ax.toNat).tdiv (signedOf 8 (data.get (data.locEb (.mem cell))))) = false ∧
    data.get (data.locEw (.mem cell)) ≠ 0 ∧
    (65536 * data.dx.toNat + data.ax.toNat) / data.get (data.locEw (.mem cell)) ≤ 65535 ∧
    outOfRange 16 ((signedOf 32 (65536 * data.dx.toNat + data.ax.toNat)).tdiv
      (signedOf 16 (data.get (data.locEw (.mem cell))))) = false := by decide +kernel

/-- The boundary of the byte quotient: 255 fits DIV, 127 and -128 fit IDIV, and one more does not. -/
theorem witness_division_fails : 255 < 0x0500 / 0x05 ∧ outOfRange 8 ((128 : Int).tdiv 1) = true ∧
    outOfRange 8 ((-128 : Int).tdiv 1) = false ∧ 65535 < 0x50000 / 0x05 ∧
    outOfRange 16 ((32768 : Int).tdiv 1) = true ∧ outOfRange 16 ((-32768 : Int).tdiv 1) = false ∧
    255 < ({ data with ax := 0x0500 } : State).ax.toNat / data.get (data.locEb (.mem cell)) ∧
    real.get (real.locEb (.mem cell)) = 0 := by decide +kernel

theorem witness_logic : data.aluReady true (.ebRb (.mem cell) .al) = true ∧ data.testReady (.ewDw (.mem cell) 1) = true := by
  decide +kernel

theorem witness_shift : data.shiftReady (.ew (.mem cell) (.imm 31)) = true ∧ data.shiftBy (.ew (.mem cell) (.imm 31)) = 31 ∧
    data.shiftReady (.eb (.mem cell) .one) = true ∧ data.shiftBy (.eb (.mem cell) .one) = 1 ∧
    data.shiftBy (.eb (.mem cell) (.imm 32)) = 0 := by decide +kernel

theorem witness_mov : data.movReady (.ewRw (.mem cell) .ax) = true ∧ data.movReady (.axXw 0x10) = true ∧
    (∀ (r : Sreg) (e : Ew), MovForm.axXw 0x10 ≠ .sregEw r e) ∧ data.writable (.mem cell : Ew) 2 = true := by
  refine ⟨by decide +kernel, by decide +kernel, fun r e => by simp, by decide +kernel⟩

/-- A byte of ROM and one where there is no memory. -/
theorem witness_platform : ({ real with platform := board } : State).writable (.mem cell : Eb) 1 = true ∧
    board.kindAt 0x2000F = .rom ∧ board.kindAt 0x20010 = .other ∧ board.kindAt 0x20020 = .ram ∧
    Memory.wf real.mem = true := by decide +kernel

theorem witness_segment_real : data.pe = false ∧ data.readable (.mem cell : Ew) 2 = true ∧
    data.mayRead .ss data.sp.toNat 2 = true ∧ data.operandIn cell 2 = true ∧
    (0x0305 : Word).toNat = data.get (data.locEw (.mem cell)) ∧ data.readWord (data.operandAddr cell 1) = 0x4007 ∧
    data.get (data.stackAt 0) = 0 := by decide +kernel

theorem witness_segment_protected : pdata.pe = true ∧ pdata.plainMemory = true ∧
    pdata.readable (.mem (.direct 0x12) : Ew) 2 = true ∧ (0x10 : Word).toNat = pdata.get (pdata.locEw (.mem (.direct 0x12))) ∧
    pdata.mayRead .ss pdata.sp.toNat 2 = true ∧ (0x10 : Word).toNat = pdata.get (pdata.stackAt 0) ∧
    pdata.operandIn cell 1 = true ∧ pdata.mayRead (pdata.memSeg cell) ((pdata.ea cell).toNat + 2) 2 = true ∧
    pdata.readWord (pdata.operandAddr cell 1) = 0x10 ∧ isNull 0x10 = false ∧ isNull 3 = true ∧
    (pdata.descriptor 0x10).any (fun d => d.readable && d.present && decide (pdata.cpl ≤ d.dpl) && decide (rpl 0x10 ≤ d.dpl)) =
      true := by decide +kernel

/-- The descriptor of a selector. -/
def desc (s : State) (sel : Word) : Desc := (s.descriptor sel).getD ⟨0, 0, 0, 0, 0⟩

/-- `prot` with the data segment marked not present. -/
def gone : State := { prot with mem := Memory.write prot.mem 0x1015 0x12 }

/-- SS takes the data segment 10H at level 0, not the code segment 08H, nor 10H at level 3, nor one that is not present. -/
theorem witness_stack_segment :
    prot.descriptor 0x10 = some (desc prot 0x10) ∧ prot.descriptor 0x08 = some (desc prot 0x08) ∧
    (rpl 0x10 = prot.cpl ∧ (desc prot 0x10).writable = true ∧ (desc prot 0x10).dpl = prot.cpl) ∧
    (desc prot 0x08).writable = false ∧ rpl 0x10 ≠ user.cpl ∧ prot.descriptor 0x28 = none ∧ isNull 0x28 = false ∧
    gone.descriptor 0x10 = some (desc gone 0x10) ∧ (desc gone 0x10).present = false ∧ (desc gone 0x10).writable = true ∧
    gone.plainMemory = true ∧ prot.descriptor 0x18 = some (desc prot 0x18) ∧ (desc prot 0x18).readable = false := by
  decide +kernel

/-- The stack segment `r` with SP = `sp`, in Protected Mode. -/
def stacked (r : SegReg) (sp : Word) : State := { prot with ss := r, sp := sp }

/-- PUSHA from 2 and from 14, POPA from FFFEH and from FFF2H, odd stack pointers, a limit that ends below the words; and segments
that expand down, with limit 0 and 1: one word from SP = 2 lies below offset 1, from 4 the second word does. -/
theorem witness_all_registers_wrap :
    (prot.ss.valid && !(prot.ss.isCode && !prot.ss.rw)) = true ∧
    ([(1, (2 : Word)), (7, 14)].all fun (n, sp) => (List.range n).all (fun j =>
      prot.ss.inLimit true (sp - BitVec.ofNat 16 (2 * j + 2)).toNat 2) && prot.ss.inLimit true (sp - 16).toNat 2) = true ∧
    ([(0xFFFE : Word), 0xFFF2].all fun sp => prot.ss.inLimit true (sp + 14).toNat 2) = true ∧
    ((List.range 7).all fun j => prot.ss.inLimit true ((0xFFF2 : Word) + BitVec.ofNat 16 (2 * j)).toNat 2) = true ∧
    oddWrap 15 true = true ∧ oddWrap 0xFFF1 false = true ∧
    (SegReg.mk 0x10 0 0x1FE 0x93 true).inLimit true ((0x200 : Word) - 2).toNat 2 = false ∧
    (SegReg.mk 0x10 0 0x1FE 0x93 true).inLimit true (0x200 : Word).toNat 2 = false ∧
    (SegReg.mk 0x10 0 0 0x97 true).inLimit true ((4 : Word) - 2).toNat 2 = true ∧
    (SegReg.mk 0x10 0 0 0x97 true).inLimit true ((4 : Word) - 4).toNat 2 = false ∧
    (SegReg.mk 0x10 0 1 0x97 true).inLimit true ((4 : Word) - 16).toNat 2 = true ∧
    (SegReg.mk 0x10 0 1 0x97 true).inLimit true ((4 : Word) - 2).toNat 2 = true := by decide +kernel

/-- PUSHA into a segment that expands down, where its second word has no room, stores nothing; #SS(0) finds no gate here. -/
theorem test_pusha_expand_down : after .pusha { stacked (SegReg.mk 0x10 0x20000 0 0x97 true) 4 with ax := 0x1234 } (fun t =>
    t.sp == 4 && t.mem == tables && t.run == .shutdown) = true := by decide +kernel

/-- A push at SP = 1, a pop at FFFFH. -/
theorem witness_stack_refused : ({ real with sp := 1 } : State).pushReady (.mw (.mem cell)) = true ∧
    (stacked prot.ss 1).ss.valid = true ∧ (stacked prot.ss 1).withinSegment .ss ((1 : Word) - 2).toNat 2 = false ∧
    (stacked prot.ss 0xFFFF).withinSegment .ss 0xFFFF 2 = false ∧ real.withinSegment .ss 0xFFFF 2 = false ∧
    (stacked (SegReg.mk 0x10 0 0xFF 0x97 true) 0x101).withinSegment .ss 0xFF 2 = false := by decide +kernel

theorem witness_stack : data.pushReady (.mw (.mem cell)) = true ∧ data.stackRoom 1 = true ∧
    data.mayRead .ss data.sp.toNat 2 = true ∧ data.writable (.mem cell : Ew) 2 = true ∧ prot.stackRoom 1 = true := by
  decide +kernel

theorem witness_all_registers :
    (!(decide ((16 : Word).toNat % 2 = 1) && decide ((16 : Word).toNat ≤ 15))) = true ∧
    (!(decide ((17 : Word).toNat % 2 = 1) && decide ((17 : Word).toNat ≤ 15))) = true ∧
    (!(decide ((0xFFEF : Word).toNat % 2 = 1) && decide (0xFFF1 ≤ (0xFFEF : Word).toNat))) = true ∧
    (prot.ss.valid && prot.ss.inLimit true (prot.sp - 16).toNat 16) = true ∧ prot.mayRead .ss prot.sp.toNat 16 = true ∧
    real.flags &&& 0x802A = 0x0002 := by decide +kernel

theorem witness_xlat : real.mayRead (real.overridden .ds) (real.bx + BitVec.ofNat 16 (real.reg8 .al).toNat).toNat 1 = true := by
  decide +kernel

theorem witness_port : real.pe = false ∧ npxPort 0xF7 = false ∧ npxPort 0x100 = false ∧ npxPort 0xF8 = true ∧
    npxPort 0x101 = false ∧ prot.cpl ≤ prot.iopl := by decide +kernel

theorem witness_string : real.mayRead (real.overridden .ds) real.si.toNat 2 = true ∧ real.mayWrite .es real.di.toNat 2 = true ∧
    real.mayRead .es real.di.toNat 2 = true ∧ real.pfx.rep = none ∧ npxPort real.dx = false ∧ npxPort (real.dx + 1) = false := by
  decide +kernel

/-- A repetition with CX = 1 and with CX = 0. -/
theorem witness_repetition :
    ({ real with cx := 1, pfx := { Prefixes.none with rep := some .rep } } : State).cx ≠ 0 ∧
    ({ real with cx := 0, pfx := { Prefixes.none with rep := some .repne } } : State).pfx.rep.isSome = true := by
  decide +kernel

theorem witness_jump : real.condition (.je 5) = some (false, 5) ∧
    ({ prot with flags := 0x42 } : State).condition (.je 5) = some (true, 5) ∧ prot.inCode (prot.ip + 5) = true := by
  decide +kernel

theorem witness_near : real.inCode 0x10 = true ∧ real.stackRoom 1 = true ∧ real.mayRead .ss real.sp.toNat 2 = true ∧
    real.get (real.stackAt 0) = (0 : Word).toNat ∧ real.inCode 0 = true := by decide +kernel

/-- A code segment that ends at 10FH: a target one byte beyond it, and 0200H on the stack. -/
def short : State := { prot with cs := { prot.cs with limit := 0x10F }, mem := tables ++ [(0x20201, 0x02)] }

theorem witness_near_beyond : short.inCode (short.ip + (0x10 : Byte).signExtend 16) = false ∧
    short.inCode (short.ip + (0x0F : Byte).signExtend 16) = true ∧
    ({ short with flags := 0x42 } : State).condition (.je 0x10) = some (true, 0x10) ∧
    ({ short with cx := 2 } : State).cx ≠ 1 ∧ short.stackRoom 1 = true ∧ short.mayRead .ss short.sp.toNat 2 = true ∧
    (0x200 : Word).toNat = short.get (short.stackAt 0) ∧ short.inCode 0x200 = false := by decide +kernel

theorem test_jump_beyond_limit : after (.jmp (.short 0x10)) short (fun t => t.run == .shutdown) = true ∧
    after (.jmp (.short 0x0F)) short (fun t => t.ip == 0x10F) = true := by decide +kernel

theorem witness_far_real : data.pe = false ∧ data.stackRoom 2 = true ∧ data.operandIn cell 2 = true ∧
    data.mayRead .ss data.sp.toNat 2 = true ∧ data.mayRead .ss (data.sp + 2).toNat 2 = true ∧
    data.mayRead .ss (data.sp + 4).toNat 2 = true ∧ data.flags &&& 0x802A = 0x0002 := by decide +kernel

/-- `tables` with, for level 3, code 28H and data 30H, a call gate 38H of one parameter and a task gate 40H, both to be used from
level 3; gates for vectors 3 (level 3), 8 and 13, and a task gate for vector 4; a task state segment at 5000H with a stack for
level 0. -/
def levels : List Host.Cell :=
  tables.take 14 ++
  [(0x1028, 0xFF), (0x1029, 0xFF), (0x102C, 0x03), (0x102D, 0xFA), (0x1030, 0xFF), (0x1031, 0xFF), (0x1034, 0x04), (0x1035, 0xF2),
    (0x1038, 0x05), (0x103A, 0x08), (0x103C, 0x01), (0x103D, 0xE4), (0x1042, 0x20), (0x1045, 0xE5),
    (0x2019, 0x05), (0x201A, 0x08), (0x201D, 0xE6), (0x2022, 0x20), (0x2025, 0x85), (0x2041, 0x06), (0x2042, 0x08), (0x2045, 0x86),
    (0x2069, 0x07), (0x206A, 0x08), (0x206D, 0x86), (0x4024, 0x08), (0x4026, 0x10), (0x5003, 0x01), (0x5004, 0x10)]

/-- Level 0 with them. -/
def kernel : State :=
  { prot with
    gdtr := { base := 0x1000, limit := 0x47 }, idtr := { base := 0x2000, limit := 0x6F }, mem := levels
    tr := { sel := 0x18, base := 0x5000, limit := 0x2B, valid := true } }

/-- Level 3 with them. -/
def outer : State := { kernel with cs := loaded 0x2B 0x30000 0xFB, ss := loaded 0x33 0x40000 0xF3 }

/-- Level 0 with words on the stack for far RET and IRET to level 3: 0005H, 002BH, then 0033H three times. -/
def leaving : State :=
  { kernel with
    sp := 0x80
    mem := levels ++ [(0x20080, 0x05), (0x20082, 0x2B), (0x20084, 0x33), (0x20086, 0x33), (0x20088, 0x33)] }

theorem witness_levels : kernel.plainMemory = true ∧ leaving.plainMemory = true ∧ kernel.pe = true ∧ outer.cpl = 3 ∧
    kernel.cpl = 0 ∧ kernel.stackRoom 2 = true ∧ kernel.flag .nt = false := by decide +kernel

theorem witness_far_direct :
    kernel.leadsTo 0x08 0xFFFF none 0x08 0xFFFF (desc kernel 0x08) ∧ kernel.sameLevel (desc kernel 0x08) := by
  unfold State.leadsTo State.codeAt State.sameLevel; decide +kernel

theorem witness_far_gate :
    kernel.leadsTo 0x38 0 (some (desc kernel 0x38)) 0x08 0x05 (desc kernel 0x08) ∧
    outer.leadsTo 0x38 0 (some (desc outer 0x38)) 0x08 0x05 (desc outer 0x08) ∧ outer.innerLevel (desc outer 0x08) := by
  unfold State.leadsTo State.codeAt State.innerLevel; decide +kernel

theorem witness_far_inner : (desc outer 0x38).count = 1 ∧ [(0 : Word)].length = 1 ∧
    outer.innerStackAt 0 (4 + 1) 0x100 0x10 (desc outer 0x10) ∧ outer.mayRead .ss outer.sp.toNat 2 = true ∧
    outer.get (outer.stackAt 0) = (0 : Word).toNat := by
  unfold State.innerStackAt; decide +kernel

theorem witness_far_operand (i : Instr) (h : i = .jmp (.far 5 8)) :
    prot.farOperand (.jmp <| .far · ·) (.jmp <| .ed ·) i 5 8 := .inl h

/-- One byte of memory changed. -/
def poke (s : State) (a : Nat) (v : Byte) : State := { s with mem := Memory.write s.mem a v }

/-- Far transfers that are not admitted: a null selector, one outside the table, a data segment, code of another level, code and
gates that are not present, a task state segment of level 0 named at level 3. -/
theorem witness_far_refused :
    kernel.farRefused 3 false (.gp 0) ∧ kernel.farRefused 0x48 true (.gp 0x48) ∧ kernel.farRefused 0x10 false (.gp 0x10) ∧
    kernel.farRefused 0x28 true (.gp 0x28) ∧ (poke kernel 0x100D 0x1A).farRefused 0x08 false (.np 0x08) ∧
    (poke kernel 0x103D 0x64).farRefused 0x38 true (.np 0x38) ∧ outer.farRefused 0x20 false (.gp 0x20) := by
  refine ⟨.inl ⟨rfl, rfl⟩, .inr (.inl (by decide +kernel)), .inr (.inr ⟨desc kernel 0x10, rfl, rfl, .inr (.inl ?_)⟩),
    .inr (.inr ⟨desc kernel 0x28, rfl, rfl, .inl ?_⟩), .inr (.inr ⟨desc (poke kernel 0x100D 0x1A) 0x08, rfl, rfl, .inl ?_⟩),
    .inr (.inr ⟨desc (poke kernel 0x103D 0x64) 0x38, rfl, rfl, .inr (.inr (.inl ?_))⟩),
    .inr (.inr ⟨desc outer 0x20, rfl, rfl, .inr (.inr (.inl ?_))⟩)⟩
  all_goals try unfold State.sameLevel
  all_goals decide +kernel

/-- Gates that lead nowhere: to code of an inner level for a jump, to data, to a null selector, to the LDT for a task. -/
theorem witness_gate_refused :
    outer.farRefused 0x38 false (.gp 0x08) ∧ (poke outer 0x103A 0x10).farRefused 0x38 true (.gp 0x10) ∧
    (poke outer 0x103A 0).farRefused 0x38 true (.gp 0) ∧ (poke outer 0x1042 0x24).farRefused 0x40 true (.gp 0x24) ∧
    (poke outer 0x1025 1).farRefused 0x40 false (.np 0x20) := by
  refine ⟨.inr (.inr ⟨desc outer 0x38, rfl, rfl, .inr (.inr (.inr ⟨?_, rfl, .inl ⟨rfl, .inr (.inr ⟨desc outer 0x08, ?_⟩)⟩⟩))⟩),
    .inr (.inr ⟨desc (poke outer 0x103A 0x10) 0x38, rfl, rfl,
      .inr (.inr (.inr ⟨?_, rfl, .inl ⟨rfl, .inr (.inr ⟨desc outer 0x10, ?_⟩)⟩⟩))⟩),
    .inr (.inr ⟨desc (poke outer 0x103A 0) 0x38, rfl, rfl, .inr (.inr (.inr ⟨?_, rfl, .inl ⟨rfl, .inl ⟨rfl, rfl⟩⟩⟩))⟩),
    .inr (.inr ⟨desc (poke outer 0x1042 0x24) 0x40, rfl, rfl, .inr (.inr (.inr ⟨?_, rfl, .inr ⟨rfl, .inl ⟨.inl rfl, rfl⟩⟩⟩))⟩),
    .inr (.inr ⟨desc (poke outer 0x1025 1) 0x40, rfl, rfl,
      .inr (.inr (.inr ⟨?_, rfl, .inr ⟨rfl, .inr ⟨desc (poke outer 0x1025 1) 0x20, ?_⟩⟩⟩))⟩)⟩ <;>
    try unfold State.sameLevel
  all_goals decide +kernel

/-- A target beyond the limit, and a stack without room for two words. -/
theorem witness_far_without_room :
    (poke kernel 0x1009 0).codeAt 0x08 0 (desc (poke kernel 0x1009 0) 0x08) ∧
    (desc (poke kernel 0x1009 0) 0x08).limit.toNat < (0x100 : Word).toNat ∧
    ({ kernel with sp := 3 } : State).leadsTo 0x08 0 none 0x08 0 (desc kernel 0x08) ∧
    ({ kernel with sp := 3 } : State).stackRoom 2 = false ∧ ({ kernel with sp := 4 } : State).stackRoom 2 = true := by
  unfold State.leadsTo State.codeAt; decide +kernel

/-- RET and RET 2 to level 3, IRET to level 3; and one level below, to the code segment 08H at level 0. -/
theorem witness_return_outer : leaving.codeAt 0x2B 5 (desc leaving 0x2B) ∧ rpl 0x2B = 3 ∧ (desc leaving 0x2B).dpl = 3 ∧
    leaving.readWord (leaving.ss.addr 0x80) = 5 ∧ leaving.readWord (leaving.ss.addr 0x82) = 0x2B ∧
    leaving.mayRead .ss 0x80 10 = true ∧ (∀ k ∈ [4, 6, 8], leaving.readWord (leaving.ss.addr (0x80 + k)) = 0x33) ∧
    leaving.descriptor 0x33 = some (desc leaving 0x33) ∧ rpl 0x33 = 3 ∧ (desc leaving 0x33).dpl = 3 ∧
    (desc leaving 0x33).writable = true ∧ (desc leaving 0x33).present = true := by
  unfold State.codeAt; decide +kernel

/-- RET and IRET that are not admitted: to level 0 from level 3, to data, to a stack that is null, of another level or not present,
without room for the words. -/
theorem witness_return_refused :
    (let s := poke outer 0x40202 0x08; s.mayRead .ss 0x202 2 = true ∧ rpl (s.readWord (s.ss.addr 0x202)) < s.cpl) ∧
    leaving.codeRefused 0x33 (returnLevel 3) (.gp 0x33) ∧ leaving.stackRefused 0 3 (.gp 0) ∧ leaving.stackRefused 0x10 3 (.gp 0x10) ∧
    (poke leaving 0x1035 0x72).stackRefused 0x33 3 (.np 0x33) ∧
    (let s := { poke leaving 0x2FFFA 0x2B with sp := 0xFFF8 };
      s.withinSegment .ss (s.sp.toNat + 2) 2 = true ∧ s.cpl < rpl (s.readWord (s.ss.addr (s.sp.toNat + 2))) ∧
      s.withinSegment .ss s.sp.toNat 8 = true ∧ s.withinSegment .ss s.sp.toNat 9 = false ∧
      s.withinSegment .ss s.sp.toNat 10 = false) ∧
    leaving.withinSegment .ss (0xFFFD + 2) 2 = false ∧ leaving.mayRead .ss 0x80 (8 + 2) = true := by
  refine ⟨by decide +kernel, .inr (.inr ⟨desc leaving 0x33, ?_⟩), .inl ⟨rfl, rfl⟩, .inr (.inr ⟨desc leaving 0x10, ?_⟩),
    .inr (.inr ⟨desc (poke leaving 0x1035 0x72) 0x33, ?_⟩), by decide +kernel, by decide +kernel, by decide +kernel⟩
  all_goals try unfold returnLevel
  all_goals decide +kernel

theorem witness_return_same :
    let s := { kernel with sp := 0x80, mem := levels ++ [(0x20080, 0x05), (0x20082, 0x08)] }
    s.codeAt 0x08 5 (desc s 0x08) ∧ rpl 0x08 = s.cpl ∧ (desc s 0x08).dpl = 0 ∧ s.mayRead .ss 0x80 6 = true ∧
    s.readWord (s.ss.addr 0x82) = 8 := by
  unfold State.codeAt; decide +kernel

theorem witness_gate_same : kernel.sameReady 3 true (desc kernel 0x08) 3 ∧ kernel.sameReady 13 false (desc kernel 0x08) 4 := by
  unfold State.sameReady State.gateOpen State.codeAt State.sameLevel; decide +kernel

theorem witness_gate_inner : outer.innerReady 3 true (desc outer 0x08) 5 0x100 0x10 (desc outer 0x10) ∧
    outer.innerReady 13 false (desc outer 0x08) 6 0x100 0x10 (desc outer 0x10) := by
  unfold State.innerReady State.gateOpen State.codeAt State.innerLevel State.innerStackAt; decide +kernel

/-- An IDT that ends with entry 8 (limit 71), with entry 13 (111) and before entry 8 (70). -/
theorem witness_short_idt :
    ({ kernel with idtr := { base := 0x2000, limit := 71 } } : State).sameReady 8 false (desc kernel 0x08) 4 ∧
    kernel.idtr.limit.toNat < 8 * (14 : Byte).toNat + 7 ∧ kernel.sameReady 13 false (desc kernel 0x08) 4 ∧
    kernel.idtr.limit.toNat < 8 * (16 : Byte).toNat + 7 ∧ (70 : Word).toNat < 71 ∧
    ({ outer with idtr := { base := 0x2000, limit := 71 } } : State).innerReady 8 false (desc outer 0x08) 6 0x100 0x10
      (desc outer 0x10) := by
  unfold State.innerReady State.sameReady State.gateOpen State.codeAt State.innerLevel State.innerStackAt State.sameLevel
  decide +kernel

/-- Each of the four events at a boundary, in Real Address Mode and, for NMI, in Protected Mode; and NMI in shutdown. -/
theorem witness_events :
    ({ real with stepPending := true } : State).sampled.realEntryReady 1 = true ∧
    ({ real with nmiPending := true } : State).sampled.realEntryReady 2 = true ∧
    ({ real with mpPending := true, run := .halted } : State).sampled.realEntryReady 9 = true ∧
    ({ real with flags := 0x0202, inputs := [⟨false, false, true, 0x20, []⟩] } : State).sampled.realEntryReady 0x20 = true ∧
    ({ real with flags := 0x0202, inputs := [⟨false, false, true, 0x20, []⟩] } : State).input.intr = true ∧
    ({ real with inputs := [⟨false, true, false, 0, []⟩] } : State).input.nmi = true ∧
    (15 ≤ real.idtr.limit.toNat ∧ 5 < real.sp.toNat) ∧ real.stepPending = false ∧ real.inhibitAll = false ∧
    real.nmiInService = false := by decide +kernel

theorem witness_event_gate :
    ({ kernel with mem := Memory.write (Memory.write (Memory.write kernel.mem 0x2011 4) 0x2012 8) 0x2015 0x86 } : State).sameReady 2
      false (desc kernel 0x08) 3 := by
  unfold State.sameReady State.gateOpen State.codeAt State.sameLevel; decide +kernel

theorem witness_real_entry : real.realEntryReady 0x21 = true ∧ real.realEntryReady 255 = true ∧ real.flag .of = false ∧
    ({ real with flags := 0x0802 } : State).flag .of = true ∧ real.plainMemory = true := by decide +kernel

/-- An interrupt table that ends with entry 8: entry 12 lies outside, entry 8 inside; and one that ends before entry 8. -/
theorem witness_short_table :
    ({ real with idtr := { base := 0, limit := 35 } } : State).realEntryReady 8 = true ∧
    ({ real with idtr := { base := 0, limit := 35 } } : State).idtr.limit.toNat < 4 * (12 : Byte).toNat + 3 ∧
    ({ real with idtr := { base := 0, limit := 34 } } : State).idtr.limit.toNat < 35 ∧
    ({ real with idtr := { base := 0, limit := 34 } } : State).realEntryReady 8 = false := by decide +kernel

theorem witness_trusted : prot.pe = true ∧ prot.cpl = 0 ∧ prot.cpl ≤ prot.iopl ∧ real.cpl = 0 ∧ user.cpl ≠ 0 ∧
    user.iopl < user.cpl ∧ user.pfx.rep = none ∧ real.pe = false := by decide +kernel

theorem witness_enter : (∀ j : Nat, j < 3 → real.mayWrite .ss (real.sp - BitVec.ofNat 16 (2 * j + 2)).toNat 2 = true) ∧
    (∀ j : Nat, 0 < j → j < 2 → ({ real with bp := 0x300 } : State).mayRead .ss ((0x300 : Word) - BitVec.ofNat 16 (2 * j)).toNat 2 = true) ∧
    real.mayRead .ss real.bp.toNat 2 = true ∧ prot.mayWrite .ss (0x1FE - 0x10) 0x10 = true ∧
    apartFrom (real.ss.addr ((0x300 : Word) - 2).toNat) real.ss real.sp 1 = true ∧
    apartFrom (real.ss.addr ((0x300 : Word) - 2).toNat + 1) real.ss real.sp 1 = true := by
  refine ⟨by decide +kernel, ?_, by decide +kernel, by decide +kernel, by decide +kernel, by decide +kernel⟩
  intro j h1 h2
  have : j = 1 := by omega
  subst this; decide +kernel

theorem witness_bound : data.mayRead (data.memSeg cell) (data.ea cell).toNat 2 = true ∧
    data.mayRead (data.memSeg cell) ((data.ea cell).toNat + 2) 2 = true ∧
    (data.readWord (data.operandAddr cell 0)).toInt ≤ (0x0305 : Word).toInt ∧
    (0x0305 : Word).toInt ≤ (data.readWord (data.operandAddr cell 1)).toInt ∧
    (0x0304 : Word).toInt < (data.readWord (data.operandAddr cell 0)).toInt := by decide +kernel

/-- The 80287 with an unmasked invalid operation pending. -/
def broken : State := { real with npx := { Npx.atReset with control := 0x03FE, status := 1 } }

theorem witness_wait : ({ real with msw := 0xFFFA } : State).mp = true ∧ ({ real with msw := 0xFFFA } : State).ts = true ∧
    ({ real with npx := { Npx.atReset with busy := true } } : State).npx.busy = true ∧ broken.npx.es = true ∧ broken.em = false ∧
    broken.ts = false ∧ broken.npx.busy = false ∧ broken.npxPresent = true ∧ real.npx.es = false ∧ real.mp = false := by
  decide +kernel

theorem witness_tables : (∀ k ∈ [0, 2, 4], real.mayWrite (real.memSeg cell) ((real.ea cell).toNat + k) 2 = true) ∧
    (∀ k ∈ [0, 2, 4], real.mayRead (real.memSeg cell) ((real.ea cell).toNat + k) 2 = true) := by decide +kernel

theorem witness_lmsw : real.cpl = 0 ∧ rpl real.cs.sel = 0 ∧ rpl ({ real with cs := .atReset 1 0x10 } : State).cs.sel ≠ 0 ∧
    data.readable (.mem cell : Ew) 2 = true ∧ (0x0305 : Word).toNat = data.get (data.locEw (.mem cell)) := by decide +kernel

theorem witness_selectors : prot.readable (.reg .ax : Ew) 2 = true ∧ prot.writable (.reg .ax : Ew) 2 = true ∧
    isLocal 0x18 = false ∧ (prot.descriptor 0x18).any (fun d => d.present && d.type == 2) = true ∧
    (prot.descriptor 0x20).any (fun d => d.present && d.type == 1) = true ∧ prot.get (prot.locEw (.reg .ax)) = (0 : Word).toNat := by
  decide +kernel

/-- LLDT and LTR of a null selector, of the LDT, outside the GDT, of data, of descriptors that are not present, of a busy task. -/
theorem witness_selectors_refused : isNull 3 = true ∧ (isNull 0x1C = false ∧ isLocal 0x1C = true) ∧
    (isNull 0x48 = false ∧ prot.descriptor 0x48 = none) ∧ (desc prot 0x10).type ≠ 2 ∧ (desc prot 0x10).type ≠ 1 ∧
    (desc (poke prot 0x101D 0x02) 0x18).type = 2 ∧ (desc (poke prot 0x101D 0x02) 0x18).present = false ∧
    (desc (poke prot 0x1025 0x01) 0x20).type = 1 ∧ (desc (poke prot 0x1025 0x01) 0x20).present = false ∧
    (desc (poke prot 0x1025 0x83) 0x20).type = 3 := by decide +kernel

theorem witness_escape : (Instr.fadd (.stSti 1)).wf = true ∧ isEsc (.fadd (.stSti 1)) = true ∧
    ({ real with msw := 0xFFF4 } : State).em = true ∧ ({ real with msw := 0xFFF8 } : State).ts = true := by decide +kernel

/-- -126 in the short real, word integer and packed decimal formats. -/
theorem witness_formats : 0xC2FC0000 < 2 ^ (shortReal.frac + shortReal.ebits + 1) ∧
    (shortReal.fields 0xC2FC0000).2.1 = 133 ∧ 0xFF82 < 2 ^ 16 ∧
    unpackDigits 18 (0x80000000000000000126 % 2 ^ 72) = some 126 ∧ (packedTemp 0x80000000000000000126).isSome = true := by
  decide +kernel

/-- 1.0 in ST and 2.0 in ST(1). -/
def pair : State := fpu 0x3FFF8000000000000000 0x40008000000000000000

/-- A busy 80287; operands whose fourth, or last, word leaves the segment. -/
theorem witness_overrun :
    ({ real with npx := { Npx.atReset with busy := true } } : State).npxReachable = true ∧ pair.npxReady = true ∧
    pair.leavesSegment (.direct 0xFFFA) 5 3 ∧ pair.leavesSegment (.direct 0xFFFD) 2 1 ∧
    pair.leavesSegment (.direct 0xFFF2) 7 7 = False ∧ pair.leavesSegment (.direct 0xFFF3) 7 6 ∧
    pair.movesIn (.fld (.m80 (.direct 0xFFFA))) (.direct 0xFFFA) 5 true ∧
    pair.movesIn (.fadd (.m32 (.direct 0xFFFD))) (.direct 0xFFFD) 2 true ∧
    pair.movesIn (.fcom (.m32 (.direct 0xFFFD))) (.direct 0xFFFD) 2 true ∧
    pair.movesIn (.fldenv (.direct 0xFFF3)) (.direct 0xFFF3) 7 false ∧
    pair.mayRead .ds 0xFFFD 2 = true ∧ pair.mayWrite .ds 0xFFFA 2 = true := by
  unfold State.leavesSegment State.movesIn
  refine ⟨by decide +kernel, by decide +kernel, by decide +kernel, by decide +kernel, by simp, by decide +kernel,
    .inl ⟨rfl, .inr (.inr (by simp))⟩, .inl ⟨rfl, .inl ⟨_, _, rfl, rfl⟩⟩, .inl ⟨rfl, .inr (.inl ⟨_, _, rfl⟩)⟩,
    .inr ⟨rfl, by simp⟩, by decide +kernel, by decide +kernel⟩

/-- FLD of ten bytes whose fourth word leaves the segment. -/
theorem test_overrun : after (.fld (.m80 (.direct 0xFFFA))) real (fun t =>
    t.mpPending && t.npx.busy && t.run == .running) = true := by decide +kernel

theorem witness_numeric : pair.npxReady = true ∧ pair.npx.isEmpty 0 = false ∧ pair.npx.isEmpty 1 = false ∧
    pair.npx.isEmpty 7 = true ∧ classOf (pair.npx.st 0) = .normal ∧ classOf (pair.npx.st 1) = .normal ∧
    (valueOf (pair.npx.st 0)).neg = false ∧ normalOrZero (pair.npx.st 0) = true ∧ pair.npx.masks .d = true ∧
    pair.operandIn cell 5 = true ∧ pair.operandOut cell 5 = true ∧ pair.operandIn cell 47 = true ∧
    pair.operandOut cell 47 = true ∧ pair.plainMemory = true := by decide +kernel

theorem witness_store : shortReal.isDenormal 0x3F800000 = false ∧ pair.npx.st 0 = shortReal.widen 0x3F800000 ∧
    pair.npx.st 0 = longReal.widen 0x3FF0000000000000 ∧ pair.npx.st 0 = integerTemp 16 1 ∧ packedTemp 1 = some (pair.npx.st 0) ∧
    pair.npx.st 0 = BitVec.ofNat 80 0x3FFF8000000000000000 := by decide +kernel

/-- A word at FFFFH, one beyond a limit, one through a register that is not valid, one in a read-only segment. -/
theorem witness_operand_faults : writesOperand (.direct 0xFFFF) 2 (.mov (.ewRw (.mem (.direct 0xFFFF)) .ax)) ∧
    real.withinSegment (real.memSeg (.direct 0xFFFF)) (real.ea (.direct 0xFFFF)).toNat 2 = false ∧
    real.withinSegment .ds 0xFFFE 2 = true ∧ prot.withinSegment .ds 0xFFFF 2 = false ∧ prot.withinSegment .ds 0xFFFE 2 = true ∧
    ({ prot with ds := { prot.ds with valid := false } } : State).ds.valid = false ∧ (loaded 0x10 0 0x91).rw = false ∧
    (loaded 0x10 0 0x91).isCode = false :=
  ⟨.inr ⟨rfl, .ax, List.mem_cons_self ..⟩, by decide +kernel⟩

theorem witness_arithmetic : pair.arithCase (.fadd (.stSti 1)) = some ⟨.add, false, 0, .reg 1, false⟩ ∧
    pair.sourceReady (.reg 1) = true ∧
    (let v := ArithOp.exact .add (valueOf (pair.npx.st 0)) (valueOf (pair.npx.st 1)) false;
      v.mant ≠ 0 ∧ -16382 ≤ v.top ∧ (v.rounded .nearest 64 0).top ≤ 16383) := by decide +kernel

/-- A zero with a normal number; an infinity with a number and, affine, with an infinity of the same sign. -/
theorem witness_zero_and_infinity :
    normalOrZero 0 = true ∧ normalOrZero 0x3FFF8000000000000000 = true ∧ (valueOf 0x3FFF8000000000000000).mant ≠ 0 ∧
    (ArithOp.exact .add (valueOf 0) (valueOf 0x3FFF8000000000000000) false).top = 0 ∧
    (ArithOp.exact .div (valueOf 0) (valueOf 0x3FFF8000000000000000) false).mant = 0 ∧
    plain (infinityOf true) = true ∧ classOf 0x3FFF8000000000000000 ≠ .nan ∧ (infinityOf true).msb = (infinityOf true).msb ∧
    (0x13FF : Word).getLsbD 12 = true ∧ (0x03FF : Word).getLsbD 12 = false := by decide +kernel

/-- Two registers, everything else as in `fpu`, with the control word `c`. -/
def fpuWith (c : Word) (a b : Temp) : State := { real with npx := { (fpu a b).npx with control := c } }

/-- A full stack; an Empty register; I unmasked. -/
theorem witness_stack_faults :
    ({ real with npx := { Npx.atReset with empty := 0 } } : State).npxReady = true ∧
    ({ real with npx := { Npx.atReset with empty := 0 } } : State).npx.isEmpty 7 = false ∧
    real.npxReady = true ∧ real.npx.isEmpty 0 = true ∧ real.npx.isEmpty 1 = true ∧ real.npx.masks .i = true ∧
    ({ real with npx := { Npx.atReset with control := 0x03FE } } : State).npx.masks .i = false ∧
    ({ real with npx := { Npx.atReset with control := 0x03FE } } : State).npxReady = true ∧
    real.operandOut cell 5 = true ∧ real.operandIn cell 5 = true := by decide +kernel

/-- Beside the boundaries of the short real: 2^128 - 2^103 overflows, 2^128 - 2^104 does not, 2^-126 is normal, 2^-127 is not. -/
theorem witness_store_ranges :
    let top (v : Temp) : Int := ((valueOf v).rounded .nearest 24 0).top
    (127 : Int) < top 0x407EFFFFFF8000000000 ∧ top 0x407EFFFFFF0000000000 ≤ 127 ∧ -126 ≤ (valueOf 0x3F818000000000000000).top ∧
    (valueOf 0x3F808000000000000000).top < -126 ∧ classOf 0x3F808000000000000000 = .normal := by decide +kernel

/-- 32767.5 rounds out of the word integer, -32768.5 to -32768; an infinity has no integer. -/
theorem witness_integer_ranges :
    RoundsTo .nearest (valueOf 0x400DFFFF000000000000) 32768 0 true ∧ 2 ^ 15 ≤ 32768 ∧
    RoundsTo .nearest (valueOf 0xC00E8000800000000000) 32768 0 true ∧ normalOrZero 0xC00E8000800000000000 = true ∧
    normalOrZero (infinityOf false) = false := by
  unfold RoundsTo; decide +kernel

/-- FBSTP: 2.5 rounds to 3, -0.25 to 0; 10^18 - 1/2 rounds to 10^18, which has nineteen digits, and 10^18 - 1 fits. -/
theorem witness_packed_ranges :
    RoundsHalfUp (valueOf 0x4000A000000000000000) 3 true ∧ RoundsHalfUp (valueOf 0xBFFD8000000000000000) 0 true ∧
    RoundsHalfUp (valueOf 0x403ADE0B6B3A763FFFF8) (10 ^ 18) true ∧ normalOrZero 0x403ADE0B6B3A763FFFF8 = true ∧
    RoundsHalfUp (valueOf 0x403ADE0B6B3A763FFFF0) (10 ^ 18 - 1) false := by
  unfold RoundsHalfUp; decide +kernel

/-- Zero divided and dividing, infinities, a NaN, a denormal, the largest and the smallest normal number. -/
theorem witness_exceptions :
    classOf 0 = .zero ∧ classOf (infinityOf true) = .infinity ∧ classOf indefinite = .nan ∧ plain indefinite = true ∧
    classOf 1 = .denormal ∧ (fpuWith 0x03FD 1 0x3FFF8000000000000000).npx.masks .d = false ∧
    (fpuWith 0x03FD 1 0x3FFF8000000000000000).npxReady = true ∧
    (let v := ArithOp.exact .add (valueOf 0x7FFEFFFFFFFFFFFFFFFF) (valueOf 0x7FFEFFFFFFFFFFFFFFFF) false;
      v.mant ≠ 0 ∧ -16382 ≤ v.top ∧ 16383 < (v.rounded .nearest 64 0).top) ∧
    (let v := ArithOp.exact .mul (valueOf 0x00018000000000000000) (valueOf 0x3FFE8000000000000000) false;
      v.mant ≠ 0 ∧ v.top < -16382) ∧
    ({ pair with npx := { pair.npx with control := 0x13FF } } : State).npx.control.getLsbD 12 = true := by decide +kernel

theorem witness_underflow_rounds : RoundsTo .nearest (valueOf 0x00018000000000000000) (2 ^ 63) (-16445) false := by
  unfold RoundsTo; decide +kernel

theorem witness_comparison : pair.compareCase (.fcompp) = some (.reg 1, 2) ∧ pair.sourceReady (.reg 1) = true ∧
    normalOrZero (pair.sourceValue (.reg 1)) = true := by decide +kernel

/-- Not comparable: an Empty register, a NaN, in projective closure a number and an infinity; comparable: two infinities, and in
affine closure (bit 12) a number and an infinity. -/
theorem witness_not_comparable : real.npx.isEmpty 0 = true ∧ real.npxReady = true ∧
    real.compareCase .ftst = some (.const 0, 0) ∧ plain indefinite = true ∧ classOf indefinite = .nan ∧
    classOf (infinityOf false) = .infinity ∧ classOf (pair.npx.st 0) ≠ .infinity ∧ plain (pair.npx.st 0) = true ∧
    pair.npx.control.getLsbD 12 = false ∧ (fpuWith 0x13FF 0 0).npx.control.getLsbD 12 = true ∧
    (fpuWith 0x13FF 0 0).npxReady = true := by decide +kernel

theorem witness_scale : (valueOf (pair.npx.st 1)).isInt 2 := by
  unfold Value.isInt Value.same; exact ⟨2, by decide +kernel⟩

theorem witness_remainder : (valueOf (pair.npx.st 0)).top - (valueOf (pair.npx.st 1)).top < 64 ∧
    (1 : Int) ≤ expOf (pair.npx.st 0) + 2 ∧ (expOf (pair.npx.st 0) : Int) + 2 ≤ 0x7FFE ∧
    -16382 ≤ (valueOf (pair.npx.st 0)).top := by decide +kernel

/-- FPREM: one NaN and two, ST's and ST(1)'s the larger; an infinite dividend; a zero, a denormal and an unnormal divisor; an Empty
register. -/
theorem witness_remainder_invalid :
    let ready (s : State) : Bool := s.npxReady && !s.npx.isEmpty 0 && !s.npx.isEmpty 1
    ready (fpu indefinite 0) = true ∧ ready (fpuWith 0x03FE indefinite 0) = true ∧
    (fpuWith 0x03FE indefinite 0).npx.masks .i = false ∧ classOf ((fpu indefinite 0).npx.st 0) = .nan ∧
    classOf 0xFFFFE000000000000000 = .nan ∧ sigOf indefinite ≤ sigOf 0xFFFFE000000000000000 ∧
    classOf (infinityOf true) = .infinity ∧ classOf 0 = .zero ∧ classOf 1 = .denormal ∧
    classOf 0x00010000000000000001 = .unnormal ∧ classOf 0x3FFF8000000000000000 ≠ .denormal ∧
    real.npxReady = true ∧ real.npx.isEmpty 1 = true := by decide +kernel

/-- 1/2 in ST and 1/4 in ST(1). -/
def small : State := fpu 0x3FFE8000000000000000 0x3FFD8000000000000000

theorem witness_transcendental : (small.npx.st 0).msb = false ∧ (small.npx.st 0).toNat ≤ 0x3FFE8000000000000000 ∧
    (valueOf (small.npx.st 1)).lt (valueOf (small.npx.st 0)) = true ∧ classOf (small.npx.st 0) = .normal ∧
    ((small.npx.st 1).setWidth 79).toNat ≤ 0x3FFD95F619980C4336F7 := by decide +kernel

theorem witness_control : escAssigned 1 1 (.mem (.direct 0)) = false ∧ real.readable (.mem cell : Ew) 2 = true ∧
    real.npx.form = .both ∧ real.npx.pm = false ∧ broken.npxReachable = true ∧ broken.npx.es = true ∧
    broken.npx.busy = false := by decide +kernel

/-! ## Task switches that complete, whatever the reserved FLAGS bits -/

/-- A task whose task state segment is at 5000H runs; its back link and the gates name the task at 4000H, which is available. -/
def moving : State := { kernel with mem := Memory.write levels 0x5000 0x20 }
/-- The same task, nested, the other one busy. -/
def nested : State := { moving with flags := 0x4002, mem := Memory.write moving.mem 0x1025 0x83 }

/-- The part of the task switch to `d` that follows the read of FLAGS. -/
def switchRest (d : Desc) (src : SwitchSource) (image : Word) : Exec Unit := do
  update (·.saveTask 0x100 (if src = .iret then putFlag image .nt false else image))
  if src = .call then update fun s => s.writeWord d.base s.tr.sel else update (·.markAvailable)
  update fun s => { s with tr := { sel := 0x20, base := d.base, limit := d.limit, valid := true } }
  update (·.loadTask src)
  loadTaskLdt
  let p ← look fun s => rpl s.cs.sel
  loadTaskSs p
  loadTaskCs
  loadTaskData .ds p
  loadTaskData .es p

/-- It does not stop, IP lies within CS, and the incoming segments' descriptors are apart from the rest. -/
def completes (s : State) (d : Desc) (r : EStateM.Result Stop State Unit) : Bool := match r with
  | .ok _ t => decide (t.ip.toNat ≤ t.cs.limit.toNat) &&
      t.accessBytes.all fun a => !(tssBytes s.tr.base 0 44 ++ tssBytes d.base 0 44 ++ [d.addr + 5, s.taskAccess]).contains a
  | .error _ _ => false

/-- The reserved bits 1, 3, 5 and 15 of FLAGS. -/
def reserved (a b c d : Bool) : Word :=
  putBit (putBit (putBit (putBit 0 1 a) 3 b) 5 c) 15 d

theorem reserved_values (w : Word) :
    w &&& ~~~definedFlags = reserved (w.getLsbD 1) (w.getLsbD 3) (w.getLsbD 5) (w.getLsbD 15) := by
  apply BitVec.eq_of_getLsbD_eq
  intro i hi
  have e : i = 0 ∨ i = 1 ∨ i = 2 ∨ i = 3 ∨ i = 4 ∨ i = 5 ∨ i = 6 ∨ i = 7 ∨ i = 8 ∨ i = 9 ∨ i = 10 ∨ i = 11 ∨ i = 12 ∨
      i = 13 ∨ i = 14 ∨ i = 15 := by omega
  rw [BitVec.getLsbD_and]
  rcases e with rfl | rfl | rfl | rfl | rfl | rfl | rfl | rfl | rfl | rfl | rfl | rfl | rfl | rfl | rfl | rfl <;>
    cases w.getLsbD 1 <;> cases w.getLsbD 3 <;> cases w.getLsbD 5 <;> cases w.getLsbD 15 <;> simp [definedFlags, reserved, putBit]

/-- The image of FLAGS with given reserved bits. -/
def imageWith (s : State) (w : Word) : Word := (s.flags &&& definedFlags) ||| w

theorem jump_completes : ∀ a b c d : Bool,
    completes moving (desc moving 0x20) (switchRest (desc moving 0x20) .jmp (imageWith moving (reserved a b c d))
      (moving.markBusy (desc moving 0x20)).drawn) = true := by decide +kernel

theorem call_completes : ∀ a b c d : Bool,
    completes moving (desc moving 0x20) (switchRest (desc moving 0x20) .call (imageWith moving (reserved a b c d))
      (moving.markBusy (desc moving 0x20)).drawn) = true := by decide +kernel

theorem return_completes : ∀ a b c d : Bool,
    completes nested (desc nested 0x20) (switchRest (desc nested 0x20) .iret (imageWith nested (reserved a b c d))
      nested.drawn) = true := by decide +kernel

theorem completes_switch {s u : State} {d : Desc} {src : SwitchSource} {w : Word}
    (e : switchTasks 0x20 d src 0x100 s = switchRest d src (imageWith s (w &&& ~~~definedFlags)) u)
    (h : ∀ a b c x : Bool, completes s d (switchRest d src (imageWith s (reserved a b c x)) u) = true)
    (n : (tssBytes s.tr.base 0 44 ++ tssBytes d.base 0 44 ++ [d.addr + 5, s.taskAccess]).Nodup) :
    ∃ t, switchTasks 0x20 d src 0x100 s = .ok () t ∧ t.ip.toNat ≤ t.cs.limit.toNat ∧ SwitchApart s t d := by
  rw [e, reserved_values]
  have k := h (w.getLsbD 1) (w.getLsbD 3) (w.getLsbD 5) (w.getLsbD 15)
  unfold completes at k
  split at k
  · next t r =>
    simp only [Bool.and_eq_true, decide_eq_true_eq, List.all_eq_true, Bool.not_eq_true'] at k
    refine ⟨t, r, k.1, n, fun a m => ?_⟩
    have := k.2 a m
    simpa only [List.contains_eq_mem, decide_eq_false_iff_not] using this
  · cases k

theorem witness_task_jump : ∃ t, switchTasks 0x20 (desc moving 0x20) .jmp moving.ip moving = .ok () t ∧
    t.ip.toNat ≤ t.cs.limit.toNat ∧ SwitchApart moving t (desc moving 0x20) :=
  completes_switch (w := Config.freeWord moving.free) rfl jump_completes (by decide +kernel)

theorem witness_task_call : ∃ t, switchTasks 0x20 (desc moving 0x20) .call moving.ip moving = .ok () t ∧
    t.ip.toNat ≤ t.cs.limit.toNat ∧ SwitchApart moving t (desc moving 0x20) :=
  completes_switch (w := Config.freeWord moving.free) rfl call_completes (by decide +kernel)

theorem witness_task_return : ∃ t, switchTasks 0x20 (desc nested 0x20) .iret nested.ip nested = .ok () t ∧
    t.ip.toNat ≤ t.cs.limit.toNat ∧ SwitchApart nested t (desc nested 0x20) :=
  completes_switch (w := Config.freeWord nested.free) rfl return_completes (by decide +kernel)

/-- The task state segment itself, the task gate 40H, the task gate of vector 4 and the back link name the task. -/
theorem witness_task_named : moving.plainMemory = true ∧ nested.plainMemory = true ∧ moving.pe = true ∧
    moving.descriptor 0x20 = some (desc moving 0x20) ∧ (desc moving 0x20).type = 1 ∧ (desc moving 0x20).present = true ∧
    moving.cpl ≤ (desc moving 0x20).dpl ∧ moving.descriptor 0x40 = some (desc moving 0x40) ∧ (desc moving 0x40).type = 5 ∧
    (desc moving 0x40).present = true ∧ (desc moving 0x40).selector = 0x20 ∧ moving.cpl ≤ (desc moving 0x40).dpl ∧
    8 * (4 : Byte).toNat + 7 ≤ moving.idtr.limit.toNat ∧ (moving.idtGate 4).type = 5 ∧ moving.cpl ≤ (moving.idtGate 4).dpl ∧
    (moving.idtGate 4).present = true ∧ (moving.idtGate 4).selector = 0x20 ∧ nested.flag .nt = true ∧
    1 ≤ nested.tr.limit.toNat ∧ nested.wordIn nested.tr.base 0 = 0x20 ∧ (desc nested 0x20).type = 3 ∧
    nested.descriptor 0x20 = some (desc nested 0x20) ∧ (desc nested 0x20).present = true ∧ isNull 0x20 = false ∧
    isLocal 0x20 = false := by decide +kernel

end Sys2Proof.Tests
end

section
/-! Runs that end in the ordinary way, their frames, and the register transfers of 40_data_movement.md (R344, R347, R352 to
R355). -/

namespace Sys2Proof.Machine

/-! ## How an instruction completes -/

/-- A meaning that keeps a frame and goes on in sequence makes an ordinary instruction: its end moves only the latches of the
boundary. -/
theorem Frame.ordinary_ended {s t : State} {changed : List Loc} {mask : Word} (hframe : Frame s t changed mask)
    (hseq : Sequential s t) (hheld : t.held = s.held) : Ordinary s (t.ended s.tfAtStart .done) changed mask := by
  have hstep : (t.ended s.tfAtStart .done).stepPending = (s.tfAtStart && t.run != .shutdown) := by
    show (s.tfAtStart && true && t.run != .shutdown) = _
    rw [Bool.and_true]
  exact ⟨hframe, hseq, rfl, hheld, rfl, rfl, hstep⟩

/-! ## Changes of general registers and FLAGS alone -/

/-- `t` is `s` but for the general registers, FLAGS and the counter of free values. -/
def OnlyRegisters (s t : State) : Prop :=
  t = { s with
    ax := t.ax, cx := t.cx, dx := t.dx, bx := t.bx, sp := t.sp, bp := t.bp, si := t.si, di := t.di
    flags := t.flags, free := t.free }

theorem onlyRegisters_setReg16 (s : State) (r : Reg16) (v : Word) : OnlyRegisters s (s.setReg16 r v) := by cases r <;> rfl

theorem onlyRegisters_setReg8 (s : State) (r : Reg8) (v : Byte) : OnlyRegisters s (s.setReg8 r v) := by cases r <;> rfl

/-- Anything that does not read those registers is the same. -/
theorem OnlyRegisters.congr {α : Type} {s t : State} (h : OnlyRegisters s t) (f : State → α)
    (hf : ∀ ax cx dx bx sp bp si di flags free,
      f { s with
        ax := ax, cx := cx, dx := dx, bx := bx, sp := sp, bp := bp, si := si, di := di
        flags := flags, free := free } = f s) :
    f t = f s :=
  (congrArg f h).trans (hf ..)

theorem OnlyRegisters.frame {s t : State} {changed : List Loc} {mask : Word} (h : OnlyRegisters s t)
    (hregs : SameRegs s t changed) (hflags : SameFlags s t mask) : Frame s t changed mask := by
  have hmem : SameMemory s t changed :=
    ⟨fun a _ => h.congr (·.readByte a) (by intros; rfl), h.congr (·.platform) (by intros; rfl)⟩
  have hsegs : SameSegments s t [] := fun r _ => h.congr (·.seg r) (by intros; cases r <;> rfl)
  have hsystem : SameSystem s t := by rw [h]; exact ⟨rfl, ⟨rfl, rfl, rfl, rfl⟩, rfl, rfl, rfl, rfl⟩
  have hnpx : SameNpx s t := by rw [h]; exact ⟨rfl, rfl⟩
  exact ⟨hregs, hmem, hflags, hsegs, hsystem, hnpx, by rw [h]⟩

/-- A meaning that changes general registers and FLAGS alone makes an ordinary instruction. -/
theorem OnlyRegisters.ordinary_ended {s t : State} {changed : List Loc} {mask : Word} (h : OnlyRegisters s t)
    (hregs : SameRegs s t changed) (hflags : SameFlags s t mask) : Ordinary s (t.ended s.tfAtStart .done) changed mask :=
  (h.frame hregs hflags).ordinary_ended (by rw [h]; exact ⟨rfl, rfl⟩) (by rw [h])

/-- A meaning that writes one word register and nothing else. -/
theorem ordinary_setReg16 (s : State) (r : Reg16) (v : Word) :
    Ordinary s ((s.setReg16 r v).ended s.tfAtStart .done) [.reg16 r] 0 :=
  (onlyRegisters_setReg16 s r v).ordinary_ended (sameRegs_setReg16 s r v) (by simp only [SameFlags, State.setReg16_flags])

/-- A meaning that writes one byte register and nothing else. -/
theorem ordinary_setReg8 (s : State) (r : Reg8) (v : Byte) :
    Ordinary s ((s.setReg8 r v).ended s.tfAtStart .done) [.reg8 r] 0 :=
  (onlyRegisters_setReg8 s r v).ordinary_ended (sameRegs_setReg8 s r v) (by simp only [SameFlags, State.setReg8_flags])

/-- A meaning that writes FLAGS and nothing else, within the mask. -/
theorem ordinary_flags (s : State) (f mask : Word) (h : f &&& ~~~mask = s.flags &&& ~~~mask) :
    Ordinary s (({ s with flags := f } : State).ended s.tfAtStart .done) [] mask :=
  OnlyRegisters.ordinary_ended (t := { s with flags := f }) rfl
    ⟨fun r _ => by cases r <;> rfl, fun r _ => by cases r <;> rfl⟩ h

/-! ## Words put together from two images -/

/-- Bits that lie within the chosen part of a blend of two images come from the image chosen. -/
theorem blend_and {n : Nat} (x y chosen within : BitVec n) (h : within &&& ~~~chosen = 0#n) :
    (x &&& chosen ||| y &&& ~~~chosen) &&& within = x &&& within := by
  ext i hi
  have hbit : (within[i] && !chosen[i]) = false := by simpa [hi] using congrArg (·.getLsbD i) h
  simp only [BitVec.getElem_and, BitVec.getElem_or, BitVec.getElem_not]
  cases hchosen : chosen[i] with
  | true => rw [Bool.and_true, Bool.not_true, Bool.and_false, Bool.or_false]
  | false =>
    have hwithin : within[i] = false := by rwa [hchosen, Bool.not_false, Bool.and_true] at hbit
    rw [hwithin, Bool.and_false, Bool.and_false]

theorem loByte_eq_setWidth (w : Word) : loByte w = w.setWidth 8 :=
  (BitVec.setWidth_eq_extractLsb' (by decide)).symm

/-- Words whose five low flags agree have low bytes whose five flags agree. -/
theorem setWidth_and_congr {x y : Word} (h : x &&& 0x00D5 = y &&& 0x00D5) :
    x.setWidth 8 &&& 0xD5 = y.setWidth 8 &&& 0xD5 := by
  have hlow := congrArg (·.setWidth 8) h
  rwa [BitVec.setWidth_and, BitVec.setWidth_and] at hlow

/-- The image that a read of FLAGS gives has the flags LAHF loads, whatever the reserved bits (R45, R352). -/
theorem loByte_flagsImage (s : State) : loByte s.flagsImage &&& 0xD5 = s.flags.setWidth 8 &&& 0xD5 := by
  rw [loByte_eq_setWidth]
  exact setWidth_and_congr (blend_and _ _ definedFlags _ (by decide))

/-- FLAGS after SAHF (R353). -/
def sahfFlags (flags : Word) (ah : Byte) : Word := (flags &&& ~~~0x00D5) ||| (zext16 ah &&& 0x00D5)

/-- SAHF loads the five flags from AH. -/
theorem sahfFlags_low (flags : Word) (ah : Byte) : (sahfFlags flags ah).setWidth 8 &&& 0xD5 = ah &&& 0xD5 := by
  have hword : sahfFlags flags ah &&& 0x00D5 = zext16 ah &&& 0x00D5 := by
    rw [sahfFlags, BitVec.or_comm]
    exact blend_and _ _ 0x00D5 _ (by decide)
  rw [setWidth_and_congr hword, zext16, BitVec.setWidth_setWidth_of_le _ (by decide), BitVec.setWidth_eq]

/-- SAHF keeps every other bit of FLAGS. -/
theorem sahfFlags_rest (flags : Word) (ah : Byte) : sahfFlags flags ah &&& ~~~0x00D5 = flags &&& ~~~0x00D5 :=
  blend_and flags (zext16 ah) (~~~0x00D5) _ (by decide)

/-- The sign of a word above it makes the double word of the same value (R355). -/
theorem toInt_signWord_append (w : Word) : ((if w.msb then 0xFFFF else 0 : Word) ++ w : BitVec 32).toInt = w.toInt := by
  have hext : w.signExtend 32 = ((if w.msb then 0xFFFF else 0 : Word) ++ w : BitVec 32) :=
    BitVec.signExtend_eq_append_of_le (by decide)
  rw [← hext, BitVec.toInt_signExtend_of_le (by decide)]

/-! ## The instructions -/

/-- XLAT: AL takes the byte at BX + AL (R344). -/
theorem exec_xlat {s : State} {off : Word} (hoff : off = s.bx + zext16 (s.reg8 .al))
    (hread : s.mayRead (s.overridden .ds) off.toNat 1 = true) :
    exec .xlat s =
      .next ((s.setReg8 .al (s.readByte ((s.seg (s.overridden .ds)).addr off.toNat))).ended s.tfAtStart .done) := by
  subst hoff
  have hload : (Place.mem8 (·.overridden .ds) fun t => t.bx + zext16 (t.reg8 .al)).read s = .ok _ s :=
    (load8_run _ _ s).trans (by rw [State.checkRead_of_mayRead hread])
  show execXlat s = _
  rw [execXlat, finish_run, bind_run, hload]
  rfl

/-- LEA: the offset alone (R347). -/
theorem exec_lea (s : State) (r : Reg16) (m : Mem) :
    exec (.lea r m) s = .next ((s.setReg16 r (s.ea m)).ended s.tfAtStart .done) := rfl

/-- LAHF: the low byte of an image of FLAGS (R352). -/
theorem exec_lahf (s : State) :
    exec .lahf s = .next ((s.drawn.setReg8 .ah (loByte s.flagsImage)).ended s.tfAtStart .done) := rfl

/-- SAHF: FLAGS alone (R353). -/
theorem exec_sahf (s : State) :
    exec .sahf s = .next (({ s with flags := sahfFlags s.flags (s.reg8 .ah) } : State).ended s.tfAtStart .done) := rfl

/-- CBW: AL sign-extended (R354). -/
theorem exec_cbw (s : State) :
    exec .cbw s = .next ((s.setReg16 .ax (sext16 (s.reg8 .al))).ended s.tfAtStart .done) := rfl

/-- CWD: the sign of AX in every bit of DX (R355). -/
theorem exec_cwd (s : State) :
    exec .cwd s = .next ((s.setReg16 .dx (if s.ax.msb then 0xFFFF else 0)).ended s.tfAtStart .done) := rfl

/-- Settles O23: each instruction's run ends in one register write, or in one of FLAGS, whose value the clause names. -/
theorem registerTransfers : Obligations.RegisterTransfers := by
  intro s
  refine ⟨fun off hoff hread => ?xlat, fun r m => ?lea, ?lahf, ?sahf, ?cbw, ?cwd⟩
  case xlat =>
    have haddr : off = s.bx + zext16 (s.reg8 .al) := by rw [hoff, BitVec.ofNat_toNat, zext16]
    exact ⟨_, exec_xlat haddr hread, congrArg BitVec.toNat (State.reg8_setReg8_same s .al _), ordinary_setReg8 s .al _⟩
  case lea => exact ⟨_, exec_lea s r m, State.reg16_setReg16_same s r _, ordinary_setReg16 s r _⟩
  case lahf =>
    have hah : (s.drawn.setReg8 .ah (loByte s.flagsImage)).reg8 .ah = loByte s.flagsImage := State.reg8_setReg8_same ..
    exact ⟨_, exec_lahf s, (congrArg (· &&& 0xD5) hah).trans (loByte_flagsImage s),
      OnlyRegisters.ordinary_ended rfl (sameRegs_setReg8 s.drawn .ah _) rfl⟩
  case sahf => exact ⟨_, exec_sahf s, sahfFlags_low _ _, ordinary_flags s _ _ (sahfFlags_rest _ _)⟩
  case cbw => exact ⟨_, exec_cbw s, BitVec.toInt_signExtend_of_le (by decide), ordinary_setReg16 s .ax _⟩
  case cwd => exact ⟨_, exec_cwd s, toInt_signWord_append s.ax, ordinary_setReg16 s .dx _⟩

end Sys2Proof.Machine
end

section
/-! Results stored at the places of operands with their flags, and the logical operations of 42_logic_shift.md (R421 to R424,
R426). -/

namespace Sys2Proof.Machine

/-! ## Result flags of a bit vector -/

/-- An even count of members is the negated exclusive or over the list. -/
theorem even_filter_length (p : Nat → Bool) (l : List Nat) :
    ((l.filter p).length % 2 == 0) = !(l.foldr (fun i acc => p i ^^ acc) false) := by
  induction l with
  | nil => rfl
  | cons i l ih =>
    rw [List.foldr_cons]
    cases hi : p i with
    | false => rw [List.filter_cons_of_neg (by simp [hi]), ih, Bool.false_xor]
    | true =>
      rw [List.filter_cons_of_pos hi, List.length_cons, Bool.true_xor, ← ih]
      rcases Nat.mod_two_eq_zero_or_one (l.filter p).length with h | h <;> simp [Nat.add_mod, h]

/-- The model's parity is the count of ones (R15). -/
theorem evenParity_eq_evenOnes {n : Nat} (r : BitVec n) : evenParity r = evenOnes r.toNat := by
  rw [evenOnes, even_filter_length, evenParity]
  simp only [List.range, List.range.loop, List.foldr, BitVec.getLsbD, Bool.xor_assoc, Bool.xor_false]

/-- ZF, SF and PF of a bit vector are those of the number it holds (R15). -/
theorem ResultFlags.of_bits {t : State} {n : Nat} {r : BitVec n} (hz : t.flag .zf = (r == 0))
    (hs : t.flag .sf = r.msb) (hp : t.flag .pf = evenParity r) : ResultFlags t n r.toNat := by
  refine ⟨?zf, ?sf, ?pf⟩
  case zf => rw [hz, Bool.eq_iff_iff, beq_iff_eq, decide_eq_true_iff, ← BitVec.toNat_inj]; rfl
  case sf => rw [hs, BitVec.msb_eq_decide]
  case pf => rw [hp, evenParity_eq_evenOnes]

/-- Writing a flag within a mask leaves the bits outside it. -/
theorem putFlag_and_not (w : Word) (f : Flag) (b : Bool) (mask : Word) (h : mask.getLsbD f.pos = true) :
    putFlag w f b &&& ~~~mask = w &&& ~~~mask := by
  apply BitVec.eq_of_getLsbD_eq
  intro i hi
  rw [BitVec.getLsbD_and, BitVec.getLsbD_and, BitVec.getLsbD_not]
  by_cases hpos : i = f.pos
  · rw [hpos, h, Bool.not_true, Bool.and_false, Bool.and_false, Bool.and_false]
  · rw [putFlag, getLsbD_putBit_other _ _ _ _ hpos]

/-! ## Changes of memory alone -/

/-- `t` is `s` but for memory and the record of old bytes. -/
def OnlyMemory (s t : State) : Prop := t = { s with mem := t.mem, stale := t.stale }

theorem OnlyMemory.frame {s t : State} {changed : List Loc} (h : OnlyMemory s t)
    (hbytes : ∀ a : Addr, (∀ l ∈ changed, a ∉ l.bytes) → t.readByte a = s.readByte a) : Frame s t changed 0 := by
  have hregs : SameRegs s t changed := by
    rw [h]; exact ⟨fun r _ => by cases r <;> rfl, fun r _ => by cases r <;> rfl⟩
  have hsegs : SameSegments s t [] := by rw [h]; exact fun r _ => by cases r <;> rfl
  have hsystem : SameSystem s t := by rw [h]; exact ⟨rfl, ⟨rfl, rfl, rfl, rfl⟩, rfl, rfl, rfl, rfl⟩
  have hnpx : SameNpx s t := by rw [h]; exact ⟨rfl, rfl⟩
  exact ⟨hregs, ⟨hbytes, by rw [h]⟩, by rw [h]; exact rfl, hsegs, hsystem, hnpx, by rw [h]⟩

/-- Where every address is RAM, no store is traced. -/
theorem onlyMemory_writeByte {s : State} (hflat : s.platform = .flat) (a : Addr) (v : Byte) :
    OnlyMemory s (s.writeByte a v) := by
  have htrace : s.traceAfter (s.physical a) v = s.ioTrace := by
    rw [State.traceAfter, hflat, Platform.kindAt_flat, if_neg (by decide)]
  rw [OnlyMemory, State.writeByte, htrace]

theorem onlyMemory_writeWord {s : State} (hflat : s.platform = .flat) (a : Addr) (v : Word) :
    OnlyMemory s (s.writeWord a v) := by
  have hlow := onlyMemory_writeByte hflat a (v.extractLsb' 0 8)
  have hhigh := onlyMemory_writeByte (s := s.writeByte a (v.extractLsb' 0 8)) hflat (a + 1) (v.extractLsb' 8 8)
  rw [OnlyMemory] at hlow hhigh
  rw [OnlyMemory, State.writeWord, hhigh, hlow]

theorem State.plainMemory_iff (s : State) : s.plainMemory = true ↔ Memory.wf s.mem = true ∧ s.platform = .flat := by
  rw [State.plainMemory, Bool.and_eq_true, decide_eq_true_iff]

/-! ## Results stored -/

/-- `t` is `s` after the number `v` is stored at `l`, and nothing else: FLAGS and IP stay. -/
structure Stored (s t : State) (l : Loc) (v : Nat) : Prop where
  get : t.get l = v
  flags : t.flags = s.flags
  frame : Frame s t [l] 0
  sequential : Sequential s t
  held : t.held = s.held

theorem stored_setReg8 (s : State) (r : Reg8) (v : Byte) : Stored s (s.setReg8 r v) (.reg8 r) v.toNat where
  get := congrArg BitVec.toNat (State.reg8_setReg8_same s r v)
  flags := State.setReg8_flags s r v
  frame := (onlyRegisters_setReg8 s r v).frame (sameRegs_setReg8 s r v) (by rw [SameFlags, State.setReg8_flags])
  sequential := ⟨State.setReg8_ip s r v, State.setReg8_ipCarry s r v⟩
  held := State.setReg8_held s r v

theorem stored_setReg16 (s : State) (r : Reg16) (v : Word) : Stored s (s.setReg16 r v) (.reg16 r) v.toNat where
  get := congrArg BitVec.toNat (State.reg16_setReg16_same s r v)
  flags := State.setReg16_flags s r v
  frame := (onlyRegisters_setReg16 s r v).frame (sameRegs_setReg16 s r v) (by rw [SameFlags, State.setReg16_flags])
  sequential := ⟨State.setReg16_ip s r v, State.setReg16_ipCarry s r v⟩
  held := State.setReg16_held s r v

theorem stored_writeByte {s : State} (hmem : s.plainMemory = true) (a : Addr) (v : Byte) :
    Stored s (s.writeByte a v) (.mem8 a) v.toNat := by
  obtain ⟨hwf, hflat⟩ := (State.plainMemory_iff s).mp hmem
  have hother : ∀ b : Addr, b ≠ a → (s.writeByte a v).readByte b = s.readByte b := fun b hb =>
    State.readByte_writeByte_other s a b v (by rwa [State.physical_flat hflat, State.physical_flat hflat])
  exact {
    get := congrArg BitVec.toNat (State.readByte_writeByte_same s a v hwf (by rw [hflat]; rfl))
    flags := rfl
    frame := (onlyMemory_writeByte hflat a v).frame fun b hb =>
      hother b fun heq => hb _ (List.mem_singleton.mpr rfl) (List.mem_singleton.mpr heq)
    sequential := ⟨rfl, rfl⟩
    held := rfl }

/-- A word is its low byte and 256 times its high byte. -/
theorem toNat_low_add_high (v : Word) : (v.extractLsb' 0 8).toNat + 256 * (v.extractLsb' 8 8).toNat = v.toNat := by
  rw [BitVec.extractLsb'_toNat, BitVec.extractLsb'_toNat, Nat.shiftRight_eq_div_pow, Nat.shiftRight_eq_div_pow]
  omega

theorem stored_writeWord {s : State} (hmem : s.plainMemory = true) (a : Addr) (v : Word) :
    Stored s (s.writeWord a v) (.mem16 a) v.toNat := by
  obtain ⟨hwf, hflat⟩ := (State.plainMemory_iff s).mp hmem
  have hother : ∀ b : Addr, b ∉ [a, a + 1] → (s.writeWord a v).readByte b = s.readByte b := fun b hb => by
    rw [List.mem_cons, List.mem_singleton, not_or] at hb
    exact State.readByte_writeWord_other s a b v (by rw [State.physical_flat hflat, State.physical_flat hflat]; exact hb.1)
      (by rw [State.physical_flat hflat, State.physical_flat hflat]; exact hb.2)
  exact {
    get := by
      rw [State.get, State.readByte_writeWord_low s a v hwf hflat, State.readByte_writeWord_high s a v hwf hflat,
        toNat_low_add_high]
    flags := rfl
    frame := (onlyMemory_writeWord hflat a v).frame fun b hb => hother b (hb _ (List.mem_singleton.mpr rfl))
    sequential := ⟨rfl, rfl⟩
    held := rfl }

/-- A store after a change of FLAGS within the mask keeps the frame of both. -/
theorem Stored.ordinary_ended {s t : State} {flags mask : Word} {free v : Nat} {l : Loc}
    (h : Stored { s with flags := flags, free := free } t l v) (hflags : flags &&& ~~~mask = s.flags &&& ~~~mask) :
    Ordinary s (t.ended s.tfAtStart .done) [l] mask := by
  obtain ⟨hregs, hmem, -, hsegs, hsystem, hnpx, htrace⟩ := h.frame
  have hsame : SameFlags s t mask := by rw [SameFlags, h.flags]; exact hflags
  exact Frame.ordinary_ended ⟨⟨hregs.1, hregs.2⟩, hmem, hsame, hsegs, hsystem, hnpx, htrace⟩ h.sequential h.held

/-! ## Places of operands -/

/-- The place reads, from `s`, what the location holds, and changes nothing. -/
def Place.ReadsAt {n : Nat} (p : Place n) (s : State) (l : Loc) : Prop :=
  l.bits = n ∧ ∃ v : BitVec n, p.read s = .ok v s ∧ v.toNat = s.get l

/-- The place stores at the location, whatever an operation has made of FLAGS before. -/
def Place.StoresAt {n : Nat} (p : Place n) (s : State) (l : Loc) : Prop :=
  ∀ (flags : Word) (free : Nat) (v : BitVec n), ∃ t : State,
    p.write v { s with flags := flags, free := free } = .ok () t ∧
    Stored { s with flags := flags, free := free } t l v.toNat

theorem Place.reg8_readsAt (s : State) (r : Reg8) : (Place.reg8 r).ReadsAt s (.reg8 r) := ⟨rfl, _, rfl, rfl⟩

theorem Place.reg16_readsAt (s : State) (r : Reg16) : (Place.reg16 r).ReadsAt s (.reg16 r) := ⟨rfl, _, rfl, rfl⟩

theorem Place.reg8_storesAt (s : State) (r : Reg8) : (Place.reg8 r).StoresAt s (.reg8 r) :=
  fun _ _ v => ⟨_, rfl, stored_setReg8 _ r v⟩

theorem Place.reg16_storesAt (s : State) (r : Reg16) : (Place.reg16 r).StoresAt s (.reg16 r) :=
  fun _ _ v => ⟨_, rfl, stored_setReg16 _ r v⟩

theorem placeEb_readsAt {s : State} {e : Eb} (h : s.readable e 1 = true) : (placeEb e).ReadsAt s (s.locEb e) :=
  ⟨by cases e <;> rfl, placeEb_read_run h⟩

theorem placeEw_readsAt {s : State} {e : Ew} (h : s.readable e 2 = true) : (placeEw e).ReadsAt s (s.locEw e) :=
  ⟨by cases e <;> rfl, placeEw_read_run h⟩

theorem placeEb_storesAt {s : State} {e : Eb} (hmem : s.plainMemory = true) (h : s.writable e 1 = true) :
    (placeEb e).StoresAt s (s.locEb e) := by
  cases e with
  | reg r => exact Place.reg8_storesAt s r
  | mem m =>
    intro flags free v
    let u : State := { s with flags := flags, free := free }
    have hcheck : u.checkWrite (u.memSeg m) (u.ea m).toNat 1 = .ok () := State.checkWrite_of_mayWrite (s := u) h
    refine ⟨u.writeByte ((u.seg (u.memSeg m)).addr (u.ea m).toNat) v, ?_, stored_writeByte (s := u) hmem _ v⟩
    exact (store8_run _ _ v u).trans (by rw [hcheck])

theorem placeEw_storesAt {s : State} {e : Ew} (hmem : s.plainMemory = true) (h : s.writable e 2 = true) :
    (placeEw e).StoresAt s (s.locEw e) := by
  cases e with
  | reg r => exact Place.reg16_storesAt s r
  | mem m =>
    intro flags free v
    let u : State := { s with flags := flags, free := free }
    have hcheck : u.checkWrite (u.memSeg m) (u.ea m).toNat 2 = .ok () := State.checkWrite_of_mayWrite (s := u) h
    refine ⟨u.writeWord ((u.seg (u.memSeg m)).addr (u.ea m).toNat) v, ?_, stored_writeWord (s := u) hmem _ v⟩
    exact (store16_run _ _ v u).trans (by rw [hcheck])

/-- The condition of an operand that is read, and written if `writes`. -/
theorem read_and_write_ready {writes mayRead mayWrite : Bool} (h : (mayRead && (!writes || mayWrite)) = true) :
    mayRead = true ∧ (writes = true → mayWrite = true) := by
  cases writes <;> simpa using h

theorem placeEb_ready {s : State} {e : Eb} {writes : Bool} (hmem : writes = true → s.plainMemory = true)
    (h : (s.readable e 1 && (!writes || s.writable e 1)) = true) :
    (placeEb e).ReadsAt s (s.locEb e) ∧ (writes = true → (placeEb e).StoresAt s (s.locEb e)) :=
  have ⟨hread, hwrite⟩ := read_and_write_ready h
  ⟨placeEb_readsAt hread, fun hw => placeEb_storesAt (hmem hw) (hwrite hw)⟩

theorem placeEw_ready {s : State} {e : Ew} {writes : Bool} (hmem : writes = true → s.plainMemory = true)
    (h : (s.readable e 2 && (!writes || s.writable e 2)) = true) :
    (placeEw e).ReadsAt s (s.locEw e) ∧ (writes = true → (placeEw e).StoresAt s (s.locEw e)) :=
  have ⟨hread, hwrite⟩ := read_and_write_ready h
  ⟨placeEw_readsAt hread, fun hw => placeEw_storesAt (hmem hw) (hwrite hw)⟩

/-! ## The rows of the two-operand instructions and of TEST -/

/-- A sign-extended byte as an unsigned number. -/
theorem toNat_sext16 (v : Byte) : (sext16 v).toNat = if v.toNat < 128 then v.toNat else v.toNat + 0xFF00 := by
  rw [sext16, BitVec.toNat_signExtend, BitVec.msb_eq_decide, BitVec.toNat_setWidth]
  have := v.isLt
  by_cases h : v.toNat < 128
  · rw [if_pos h, if_neg (by simpa using h)]; omega
  · rw [if_neg h, if_pos (by simpa using h)]; omega

/-- A row whose operands are ready applies the operation to a place at its destination and to its source. -/
theorem aluForm_run {s : State} {f : AluForm} {writes : Bool} (hmem : writes = true → s.plainMemory = true)
    (h : s.aluReady writes f = true) :
    ∃ (n : Nat) (p : Place n) (b : BitVec n), (∀ k, aluForm k f s = k n p b s) ∧ b.toNat = s.aluSrc f ∧
      p.ReadsAt s (s.aluDst f) ∧ (writes = true → p.StoresAt s (s.aluDst f)) := by
  cases f with
  | ebRb e r => exact ⟨8, placeEb e, s.reg8 r, fun _ => rfl, rfl, placeEb_ready hmem h⟩
  | ewRw e r => exact ⟨16, placeEw e, s.reg16 r, fun _ => rfl, rfl, placeEw_ready hmem h⟩
  | rbEb r e =>
    obtain ⟨v, hread, hv⟩ := placeEb_read_run h
    exact ⟨8, .reg8 r, v, fun k => by rw [aluForm, bind_run, hread], hv, Place.reg8_readsAt s r,
      fun _ => Place.reg8_storesAt s r⟩
  | rwEw r e =>
    obtain ⟨v, hread, hv⟩ := placeEw_read_run h
    exact ⟨16, .reg16 r, v, fun k => by rw [aluForm, bind_run, hread], hv, Place.reg16_readsAt s r,
      fun _ => Place.reg16_storesAt s r⟩
  | alDb v => exact ⟨8, .reg8 .al, v, fun _ => rfl, rfl, Place.reg8_readsAt s .al, fun _ => Place.reg8_storesAt s .al⟩
  | axDw v => exact ⟨16, .reg16 .ax, v, fun _ => rfl, rfl, Place.reg16_readsAt s .ax, fun _ => Place.reg16_storesAt s .ax⟩
  | ebDb e v => exact ⟨8, placeEb e, v, fun _ => rfl, rfl, placeEb_ready hmem h⟩
  | ewDw e v => exact ⟨16, placeEw e, v, fun _ => rfl, rfl, placeEw_ready hmem h⟩
  | ewDb e v => exact ⟨16, placeEw e, sext16 v, fun _ => rfl, toNat_sext16 v, placeEw_ready hmem h⟩

/-- A TEST row whose operand is ready compares a place at its first operand with its second. -/
theorem exec_test {s : State} {f : TestForm} (h : s.testReady f = true) :
    ∃ (n : Nat) (p : Place n) (b : BitVec n), exec (.test f) s = finish (compare (logicOp bitAnd) p b) s ∧
      b.toNat = s.testSrc f ∧ p.ReadsAt s (s.testDst f) := by
  cases f with
  | ebRb e r => exact ⟨8, placeEb e, s.reg8 r, rfl, rfl, placeEb_readsAt h⟩
  | ewRw e r => exact ⟨16, placeEw e, s.reg16 r, rfl, rfl, placeEw_readsAt h⟩
  | alDb v => exact ⟨8, .reg8 .al, v, rfl, rfl, Place.reg8_readsAt s .al⟩
  | axDw v => exact ⟨16, .reg16 .ax, v, rfl, rfl, Place.reg16_readsAt s .ax⟩
  | ebDb e v => exact ⟨8, placeEb e, v, rfl, rfl, placeEb_readsAt h⟩
  | ewDw e v => exact ⟨16, placeEw e, v, rfl, rfl, placeEw_readsAt h⟩

/-! ## The logical operations -/

/-- FLAGS after a logical operation with the result `r`: AF is open (R421). -/
def State.flagsAfterLogic {n : Nat} (s : State) (r : BitVec n) : Word :=
  putFlag (logicFlags s.flags r) .af (Config.freeBit s.free)

/-- The state after it: FLAGS, and the counter of free values, from which AF is drawn. -/
def State.afterLogic {n : Nat} (s : State) (r : BitVec n) : State := { s.drawn with flags := s.flagsAfterLogic r }

theorem logicOp_run_afterLogic (op : (k : Nat) → BitVec k → BitVec k → BitVec k) (n : Nat) (a b : BitVec n) (s : State) :
    logicOp op n a b s = .ok (op n a b) (s.afterLogic (op n a b)) := logicOp_run op n a b s

/-- The flags that R421 gives a result of `w` bits. -/
def LogicFlags (t : State) (w r : Nat) : Prop := ResultFlags t w r ∧ t.flag .cf = false ∧ t.flag .of = false

theorem logicFlags_of_flags {s t : State} {n : Nat} {r : BitVec n} (h : t.flags = s.flagsAfterLogic r) :
    LogicFlags t n r.toNat := by
  have hflag (g : Flag) (haf : g ≠ .af) : t.flag g = flagOf (logicFlags s.flags r) g := by
    rw [State.flag, h, State.flagsAfterLogic, flagOf_putFlag_other _ _ _ _ haf]
  refine ⟨.of_bits ?zf ?sf ?pf, ?cf, ?of⟩ <;> rw [hflag _ (by decide)] <;>
    simp [logicFlags, resultFlags, flagOf_putFlag_other]

theorem flagsAfterLogic_rest {n : Nat} (s : State) (r : BitVec n) :
    s.flagsAfterLogic r &&& ~~~arithMask = s.flags &&& ~~~arithMask := by
  simp only [State.flagsAfterLogic, logicFlags, resultFlags]
  iterate 6 rw [putFlag_and_not _ _ _ arithMask (by decide)]

/-- A logical operation whose result is compared alone: its flags, and nothing stored. -/
theorem finish_compare_logicOp {op : (k : Nat) → BitVec k → BitVec k → BitVec k} {s : State} {n : Nat} {p : Place n}
    {l : Loc} (b : BitVec n) (hread : p.ReadsAt s l) :
    ∃ (a : BitVec n) (t : State), a.toNat = s.get l ∧ finish (compare (logicOp op) p b) s = .next t ∧
      LogicFlags t l.bits (op n a b).toNat ∧ Ordinary s t [] arithMask := by
  obtain ⟨rfl, a, ha, hget⟩ := hread
  have hrun : compare (logicOp op) p b s = .ok () (s.afterLogic (op l.bits a b)) := by
    rw [compare_run, ha]; simp only [logicOp_run_afterLogic]
  exact ⟨a, (s.afterLogic (op l.bits a b)).ended s.tfAtStart .done, hget, by rw [finish_run, hrun],
    logicFlags_of_flags rfl, ordinary_flags s.drawn _ _ (flagsAfterLogic_rest s _)⟩

/-- A logical operation whose result replaces its operand: the result, its flags, and nothing else. -/
theorem finish_modify_logicOp {op : (k : Nat) → BitVec k → BitVec k → BitVec k} {s : State} {n : Nat} {p : Place n}
    {l : Loc} (b : BitVec n) (hread : p.ReadsAt s l) (hstore : p.StoresAt s l) :
    ∃ (a : BitVec n) (t : State), a.toNat = s.get l ∧ finish (modify (logicOp op) p b) s = .next t ∧
      t.get l = (op n a b).toNat ∧ LogicFlags t l.bits (op n a b).toNat ∧ Ordinary s t [l] arithMask := by
  obtain ⟨rfl, a, ha, hget⟩ := hread
  obtain ⟨t, ht, hstored⟩ := hstore (s.flagsAfterLogic (op l.bits a b)) (s.free + 1) (op l.bits a b)
  have hrun : modify (logicOp op) p b s = .ok () t := by
    rw [modify_run, ha]; simp only [logicOp_run_afterLogic]; exact ht
  have hend : (t.ended s.tfAtStart .done).get l = t.get l := by cases l <;> rfl
  exact ⟨a, t.ended s.tfAtStart .done, hget, by rw [finish_run, hrun], hend.trans hstored.get,
    logicFlags_of_flags hstored.flags, hstored.ordinary_ended (flagsAfterLogic_rest s _)⟩

/-- AND, OR and XOR apply a bitwise operation at every row. -/
theorem exec_logic {i : Instr} {f : AluForm} {op : Nat → Nat → Nat}
    (h : (i = .and f ∧ op = fun a b => a &&& b) ∨ (i = .or f ∧ op = fun a b => a ||| b) ∨
      (i = .xor f ∧ op = fun a b => a ^^^ b)) :
    ∃ bitOp : (k : Nat) → BitVec k → BitVec k → BitVec k,
      (∀ s, exec i s = finish (aluForm (fun _ => modify (logicOp bitOp)) f) s) ∧
      ∀ (n : Nat) (a b : BitVec n), (bitOp n a b).toNat = op a.toNat b.toNat := by
  rcases h with ⟨rfl, rfl⟩ | ⟨rfl, rfl⟩ | ⟨rfl, rfl⟩
  · exact ⟨bitAnd, fun _ => rfl, fun _ => BitVec.toNat_and⟩
  · exact ⟨bitOr, fun _ => rfl, fun _ => BitVec.toNat_or⟩
  · exact ⟨bitXor, fun _ => rfl, fun _ => BitVec.toNat_xor⟩

/-- Settles O15: a row is a place at its destination and a source, and the run at a place ends in the flags of R421 and, but for
TEST, in one store of the result. -/
theorem logicalOperations : Obligations.LogicalOperations := by
  refine ⟨fun i f op s hop hmem hready => ?replace, fun f s hready => ?test⟩
  case replace =>
    obtain ⟨bitOp, hexec, hbits⟩ := exec_logic hop
    obtain ⟨n, p, b, hrow, hb, hread, hstore⟩ := aluForm_run (fun _ => hmem) hready
    obtain ⟨a, t, ha, hrun, hget, ⟨hres, hcf, hof⟩, hframe⟩ := finish_modify_logicOp (op := bitOp) b hread (hstore rfl)
    have hnext : exec i s = .next t := by rw [hexec, ← hrun, finish_run, finish_run, hrow]
    rw [hbits, ha, hb] at hget hres
    exact ⟨t, hnext, hget, hres, hcf, hof, hframe⟩
  case test =>
    obtain ⟨n, p, b, hexec, hb, hread⟩ := exec_test hready
    obtain ⟨a, t, ha, hrun, ⟨hres, hcf, hof⟩, hframe⟩ := finish_compare_logicOp (op := bitAnd) b hread
    rw [bitAnd, BitVec.toNat_and, ha, hb] at hres
    exact ⟨t, hexec.trans hrun, hres, hcf, hof, hframe⟩

end Sys2Proof.Machine
end

section
/-! Near jumps within the code segment, and the conditional jumps and loops of 44_control_transfer.md (R491, R492, R499 to
R519). -/

namespace Sys2Proof.Machine

/-! ## Branches of a state -/

/-- The state with IP at `off` if the branch is taken. -/
def State.branch (s : State) (taken : Bool) (off : Word) : State := if taken then s.jumpTo off else s

theorem State.branch_ip (s : State) (taken : Bool) (off : Word) :
    (s.branch taken off).ip = if taken then off else s.ip := by cases taken <;> rfl

theorem State.branch_cx (s : State) (taken : Bool) (off : Word) : (s.branch taken off).cx = s.cx := by cases taken <;> rfl

theorem State.branch_held (s : State) (taken : Bool) (off : Word) : (s.branch taken off).held = s.held := by
  cases taken <;> rfl

/-- A frame does not speak of IP. -/
theorem Frame.jumpTo {s t : State} {changed : List Loc} {mask : Word} (h : Frame s t changed mask) (off : Word) :
    Frame s (t.jumpTo off) changed mask := h

theorem Frame.branch {s t : State} {changed : List Loc} {mask : Word} (h : Frame s t changed mask) (taken : Bool) (off : Word) :
    Frame s (t.branch taken off) changed mask := by
  cases taken with
  | false => exact h
  | true => exact h.jumpTo off

theorem Frame.unchanged (s : State) : Frame s s [] 0 :=
  OnlyRegisters.frame rfl ⟨fun _ _ => rfl, fun _ _ => rfl⟩ rfl

/-- The end of an instruction clears the latches of the boundary, wherever the instruction has led. -/
theorem boundary_ended {s t : State} (hheld : t.held = s.held) : Boundary s (t.ended s.tfAtStart .done) :=
  ⟨rfl, hheld, rfl, rfl, congrArg (· && t.run != .shutdown) (Bool.and_true s.tfAtStart)⟩

/-! ## Near jumps -/

/-- A near jump goes to a target within the code segment and raises #GP(0) for another (R491). -/
theorem nearTo_run (off : Word) (s : State) :
    nearTo off s = if s.inCode off then .ok () (s.jumpTo off) else .error (.exn (.gp 0) false) s := by
  have hcheck : checkTarget off s = if s.inCode off then .ok () s else .error (.exn (.gp 0) false) s := require_run _ _ _
  rw [nearTo, bind_run, hcheck]
  cases s.inCode off <;> rfl

theorem nearTo_taken_run {s : State} {taken : Bool} {off : Word} (h : taken = true → s.inCode off = true) :
    (if taken then nearTo off else pure () : Exec Unit) s = .ok () (s.branch taken off) := by
  cases taken with
  | false => rfl
  | true => exact (nearTo_run off s).trans (if_pos (h rfl))

/-! ## Conditional jumps -/

/-- SF = OF, the condition of JGE and JG, is that they do not differ (R513, R515). -/
theorem not_xor_eq_beq (a b : Bool) : (!(a ^^ b)) = (a == b) := Bool.not_not _

/-- Each of the seventeen instructions is the jump on its condition. -/
theorem exec_of_condition {s : State} {i : Instr} {c : Bool} {d : Byte} (h : s.condition i = some (c, d)) :
    exec i s = jumpIf c d s := by
  cases i with
  | jge | jg => cases h; rw [not_xor_eq_beq]; rfl
  | _ => cases h <;> rfl

theorem jumpIf_run {s : State} {c : Bool} {d : Byte} (h : c = true → s.inCode (s.ip + d.signExtend 16) = true) :
    jumpIf c d s = .next ((s.branch c (s.ip + d.signExtend 16)).ended s.tfAtStart .done) :=
  (finish_run _ s).trans (by rw [State.relative, sext16, nearTo_taken_run h])

/-- A jump beyond the code segment is abandoned for #GP(0). -/
theorem jumpIf_beyond {s : State} {d : Byte} (h : s.inCode (s.ip + d.signExtend 16) = false) :
    jumpIf true d s = .next ((takeException (.gp 0) false s s).ended s.tfAtStart .done) := by
  have hnear : nearTo (s.ip + d.signExtend 16) s = .error (.exn (.gp 0) false) s := by
    rw [nearTo_run, h]; rfl
  exact (finish_run _ s).trans (by rw [if_pos rfl, State.relative, sext16, hnear]; rfl)

/-! ## Loops -/

/-- CX counted down is not zero unless it was one. -/
theorem countedDown_ne_zero (w : Word) : (w - 1 != 0) = (w != 1) := by
  have hzero : w - 1 = 0 ↔ w = 1 := BitVec.sub_eq_iff_eq_add
  rw [Bool.eq_iff_iff, bne_iff_ne, bne_iff_ne, ne_eq, ne_eq, hzero]

/-- Each of the three loops is the loop on its part of the condition. -/
theorem exec_of_loop {s : State} {i : Instr} {z : Bool} {d : Byte}
    (h : (i = .loop d ∧ z = true) ∨ (i = .loope d ∧ z = s.flag .zf) ∨ (i = .loopne d ∧ z = !s.flag .zf)) :
    exec i s = loopIf z d s := by
  rcases h with ⟨rfl, rfl⟩ | ⟨rfl, rfl⟩ | ⟨rfl, rfl⟩ <;> rfl

theorem loopIf_run {s : State} {z : Bool} {d : Byte}
    (h : (s.cx != 1 && z) = true → s.inCode (s.ip + d.signExtend 16) = true) :
    loopIf z d s = .next (((s.setReg16 .cx (s.cx - 1)).branch (s.cx != 1 && z) (s.ip + d.signExtend 16)).ended
      s.tfAtStart .done) := by
  have hjump := nearTo_taken_run (s := s.setReg16 .cx (s.cx - 1)) h
  rw [loopIf, finish_run, bind_run, setReg16_run, countedDown_ne_zero, State.relative, sext16]
  simp only [hjump]

/-- Settles O28: a conditional jump is a branch of the state at its start, a loop one of that state with CX counted down. -/
theorem conditionalJumpsAndLoops : Obligations.ConditionalJumpsAndLoops := by
  refine ⟨fun i c d s hcond hin => ?jump, fun i d s hcond hout => ?beyond, ?loop⟩
  case jump =>
    exact ⟨_, (exec_of_condition hcond).trans (jumpIf_run hin), State.branch_ip s c _, (Frame.unchanged s).branch c _,
      boundary_ended (State.branch_held s c _)⟩
  case beyond => exact ⟨s.free, (exec_of_condition hcond).trans (jumpIf_beyond hout)⟩
  case loop =>
    intro i z d s hloop jump hin
    let counted := s.setReg16 .cx (s.cx - 1)
    have hcounted : Frame s counted [.reg16 .cx] 0 := (stored_setReg16 s .cx (s.cx - 1)).frame
    exact ⟨_, (exec_of_loop hloop).trans (loopIf_run hin), State.branch_cx counted jump _, State.branch_ip counted jump _,
      hcounted.branch jump _, boundary_ended (State.branch_held counted jump _)⟩

end Sys2Proof.Machine
end

section
/-! The instructions that change one flag, and NOP (45_flag_misc_extended.md R541 to R545, R550). -/

namespace Sys2Proof.Machine

/-- The bit of a flag lies within the mask of that flag. -/
theorem Flag.getLsbD_mask (f : Flag) : (1 <<< f.pos : Word).getLsbD f.pos = true := by cases f <;> rfl

/-- A meaning that changes one flag and nothing else. -/
theorem ordinary_setFlag (s : State) (f : Flag) (b : Bool) :
    Ordinary s ((s.setFlag f b).ended s.tfAtStart .done) [] (1 <<< f.pos) :=
  ordinary_flags s _ _ (putFlag_and_not s.flags f b _ f.getLsbD_mask)

/-- Each of the five instructions runs to the write of the flag and the value its row names. -/
theorem exec_flagInstruction {s : State} {i : Instr} {f : Flag} {b : Bool}
    (h : (i, f, b) ∈ [(Instr.clc, Flag.cf, false), (.stc, .cf, true), (.cmc, .cf, !s.flag .cf), (.cld, .df, false),
      (.std, .df, true)]) :
    exec i s = .next ((s.setFlag f b).ended s.tfAtStart .done) := by
  simp only [List.mem_cons, List.not_mem_nil, or_false, Prod.mk.injEq] at h
  rcases h with ⟨rfl, rfl, rfl⟩ | ⟨rfl, rfl, rfl⟩ | ⟨rfl, rfl, rfl⟩ | ⟨rfl, rfl, rfl⟩ | ⟨rfl, rfl, rfl⟩ <;> rfl

/-- NOP: the boundary alone (R550). -/
theorem exec_nop (s : State) : exec .nop s = .next (s.ended s.tfAtStart .done) := rfl

/-- Settles O37: the five runs each end in one write of a flag, and that of NOP in none. -/
theorem flagInstructionsChangeOneFlag : Obligations.FlagInstructionsChangeOneFlag := by
  refine fun s => ⟨fun i f b hrow => ?flag, ?nop⟩
  case flag => exact ⟨_, exec_flagInstruction hrow, State.flag_setFlag_same s f b, ordinary_setFlag s f b⟩
  case nop => exact ⟨_, exec_nop s, (Frame.unchanged s).ordinary_ended ⟨rfl, rfl⟩ rfl⟩

end Sys2Proof.Machine
end
